-- ==== Sys2Proof/Word.lean ====
section
/-! DEFINITION. The two word types of the hardware: 8-bit data and the 5-bit opcode (rules R1, R5).
Bit 0 is the least significant bit of either (rule R7). -/

namespace Sys2Proof

/-- A value of `A`, `B` or `OUT` (rule R8). -/
abbrev Byte := BitVec 8

/-- A value of the opcode input `FUNC[4:0]` (rule R31). -/
abbrev Opcode := BitVec 5

end Sys2Proof
end

