-- ==== Sys2Proof/Syntax.lean ====
section
/-! DEFINITION. The instructions (one constructor per row of the opcode table) and the steps of a host sequence. -/

namespace Sys2Proof

/-- The 19 operations of rule R33, in opcode order. An operation has no operand fields: its operands arrive on the
ports `A` and `B` (rule R36). -/
inductive Instr where
  | add | sub | inc | dec
  | lsl | lsr | asr | rev
  | nand | nor | xor | passa | passb | and | or | xnor
  | cmp | nota | notb
  deriving DecidableEq, Repr

/-- The "Type" column of rule R33. It decides which operations are "Logic ops" and "Shifts" for `COUT`
(conflict C7, log 12). -/
inductive OpType where
  | arithmetic | shift | logic | special
  deriving DecidableEq, Repr

/-- The four flag outputs (rule R14), as names a guard of a host sequence can give. -/
inductive Flag where
  | less | equal | positive | cout
  deriving DecidableEq, Repr

/-- An operand of a host step (decision D22, rule R43): a literal, `OUT` of step `j`, or `-` ("any value"). -/
inductive HostOperand where
  | lit (v : Byte)
  | outOf (j : Nat)
  | any
  deriving DecidableEq, Repr

/-- A guard of a host step (decision D22): flag `flag` of step `step` is `expect`. `expect = false` is the `else` of
program P3. -/
structure HostGuard where
  step : Nat
  flag : Flag
  expect : Bool
  deriving DecidableEq, Repr

/-- One step of a host sequence (decision D22): what the host drives on `FUNC`, on `A` and on `B`, and its guard. `func`
is the 5-bit encoding of the line (rule R43), so that a reserved opcode can be driven too (program P7). -/
structure HostStep where
  func : Opcode
  a : HostOperand
  b : HostOperand
  guard : Option HostGuard := none
  deriving DecidableEq, Repr

end Sys2Proof
end

