-- ==== Sys2Proof/Decode.lean ====
section
/-! DEFINITION. From the opcode input to the operation and back (rules R31 to R35). Decoding compares all five bits;
the 13 reserved values decode to nothing. -/

namespace Sys2Proof

/-- The "Binary" column of rule R33. -/
def opcodeTable : List (Opcode × Instr) :=
  [ (0b00000#5, .add),  (0b00001#5, .sub),   (0b00010#5, .inc),   (0b00011#5, .dec),
    (0b00100#5, .lsl),  (0b00101#5, .lsr),   (0b00110#5, .asr),   (0b00111#5, .rev),
    (0b01000#5, .nand), (0b01001#5, .nor),   (0b01010#5, .xor),   (0b01011#5, .passa),
    (0b01100#5, .passb), (0b01101#5, .and),  (0b01110#5, .or),    (0b01111#5, .xnor),
    (0b10000#5, .cmp),  (0b10001#5, .nota),  (0b10010#5, .notb) ]

/-- The operation of an opcode; `none` for the reserved values 19 to 31 (rules R33, R34). -/
def decode (func : Opcode) : Option Instr :=
  (opcodeTable.find? fun row => row.1 == func).map (·.2)

/-- The opcode of an operation (rule R33, as it stands a second time in the "Opcode" column of rule R38). -/
def encode : Instr → Opcode
  | .add => 0b00000#5
  | .sub => 0b00001#5
  | .inc => 0b00010#5
  | .dec => 0b00011#5
  | .lsl => 0b00100#5
  | .lsr => 0b00101#5
  | .asr => 0b00110#5
  | .rev => 0b00111#5
  | .nand => 0b01000#5
  | .nor => 0b01001#5
  | .xor => 0b01010#5
  | .passa => 0b01011#5
  | .passb => 0b01100#5
  | .and => 0b01101#5
  | .or => 0b01110#5
  | .xnor => 0b01111#5
  | .cmp => 0b10000#5
  | .nota => 0b10001#5
  | .notb => 0b10010#5

/-- The number whose bits are those of an instruction of `nbits` bits: every bit from `nbits` up is 0. -/
def tableWord (nbits w : Nat) : Nat :=
  w % 2 ^ nbits

/-- The operation the decoder reads from a word numbered as the opcode table numbers it: bits 4 to 0 are `FUNC[4:0]`.
`FUNC` has no further bits, so a word with one set is no instruction (log 22). -/
def decodeTableWord (nbits w : Nat) : Option Instr :=
  if tableWord nbits w < 32 then decode (BitVec.ofNat 5 (tableWord nbits w)) else none

/-- The grouping of the opcodes by `FUNC[4:3]` (rule R32, as corrected by conflict C3). It is descriptive: no rule of
behaviour depends on it, and the decoder does not use it. -/
inductive Category where
  | arithmeticAndShift | logic | special | reserved
  deriving DecidableEq, Repr

/-- The category of an opcode (rule R32). -/
def category (func : Opcode) : Category :=
  match func.getLsbD 4, func.getLsbD 3 with
  | false, false => .arithmeticAndShift
  | false, true => .logic
  | true, false => .special
  | true, true => .reserved

/-- The "Type" column of rule R33, row by row. -/
def Instr.type : Instr → OpType
  | .add | .sub | .inc | .dec => .arithmetic
  | .lsl | .lsr | .asr => .shift
  | .rev | .cmp => .special
  | .nand | .nor | .xor | .passa | .passb | .and | .or | .xnor | .nota | .notb => .logic

/-- Does `OUT` ignore port `A`? The table of rule R36. -/
def Instr.outIgnoresA : Instr → Bool
  | .passb | .notb => true
  | .add | .sub | .inc | .dec | .lsl | .lsr | .asr | .rev => false
  | .nand | .nor | .xor | .passa | .and | .or | .xnor | .cmp | .nota => false

/-- Does `OUT` ignore port `B`? The table of rule R36. CMP has no defined `OUT`; its flags need both ports, so
neither port counts as ignored. -/
def Instr.outIgnoresB : Instr → Bool
  | .inc | .dec | .lsl | .lsr | .asr | .rev | .passa | .nota => true
  | .add | .sub | .nand | .nor | .xor | .passb | .and | .or | .xnor | .cmp | .notb => false

end Sys2Proof
end

