-- ==== Sys2Proof/Config.lean ====
section
/-! DEFINITION. The values the spec leaves open, as constants without a body: nothing in Lean can evaluate one, so
whatever is proved holds for every choice of them. Each is applied to the number of the draw, so that two evaluations
need not draw the same value (rule R6, rule R23). -/

namespace Sys2Proof

/-- `CMP_OUT` (rules R6, R61; decision D17): what `OUT` carries during the CMP that makes draw `n`. Log 3. -/
opaque Config.cmpOut (n : Nat) : Byte

/-- `REV_COUT` (rules R6, R62; decision D18): what `COUT` carries during the REV that makes draw `n`. Log 4. -/
opaque Config.revCout (n : Nat) : Bool

/-- The value on a port whose operand the host wrote `-`, "any value" (rule R43), at draw `n`. Log 17. -/
opaque Config.anyOperand (n : Nat) : Byte

end Sys2Proof
end

