-- ==== Sys2Proof/Machine/Bits.lean ====
section
/-! DEFINITION. Building a vector bit by bit, and the bit reversal of rule R9. -/

namespace Sys2Proof.Machine

/-- The vector of width `n` whose bit `i` is `f i`. -/
def ofBits : (n : Nat) → (Nat → Bool) → BitVec n
  | 0, _ => 0#0
  | n + 1, f => BitVec.cons (f n) (ofBits n f)

/-- `rev8(v)` of rule R9: bit `i` of the result is bit `7 - i` of `v`. -/
def rev8 (v : Byte) : Byte :=
  ofBits 8 fun i => v.getLsbD (7 - i)

end Sys2Proof.Machine
end

