-- ==== Sys2Proof/Machine/State.lean ====
section
/-! DEFINITION. The state of the model, its refusals and its reset. The ALU stores nothing (rules R3, R12, R14, R17):
what the state holds is the eight ports (rule R11), the model's counter of free values, and the host's own storage
(decision D22). -/

namespace Sys2Proof.Machine

/-- The five outputs of one evaluation, read together (rule R83 item (3)). -/
structure Outputs where
  out : Byte
  less : Bool
  equal : Bool
  positive : Bool
  cout : Bool
  deriving DecidableEq, Repr

/-- The machine. A one-bit output is `true` for 1. -/
structure State where
  /-- Input port `FUNC[4:0]` (rule R11). -/
  func : Opcode
  /-- Input port `A` (rule R11). -/
  a : Byte
  /-- Input port `B` (rule R11). -/
  b : Byte
  /-- Output port `OUT`, as the latest evaluation drove it (rule R11). -/
  out : Byte
  /-- Output flag `LESS` (rule R68). -/
  less : Bool
  /-- Output flag `EQUAL` (rule R69). -/
  equal : Bool
  /-- Output flag `POSITIVE` (rule R70). -/
  positive : Bool
  /-- Output flag `COUT` (rule R71). -/
  cout : Bool
  /-- The model's own: how many free values have been drawn (log 5). -/
  draws : Nat
  /-- The host's: the steps of its sequence still to come (decision D22, log 14). -/
  pending : List HostStep
  /-- The host's: for each step of its sequence so far, the outputs it recorded, or `none` for a step its guard left
  out (decision D22). -/
  record : List (Option Outputs)
  deriving DecidableEq, Repr

/-- The hardware has no fault mechanism (rule R74): nobody raises a fault, and there is none. -/
inductive Fault where
  deriving DecidableEq, Repr

/-- Verdicts of the model, not mechanisms of the hardware (rule R75). -/
inductive Refusal where
  /-- Raised only by an arm of `exec` for an instruction that has no meaning yet. Safe: nothing is claimed of it. -/
  | notModelled (mnemonic : String)
  /-- Raised by an evaluation whose `FUNC` is 19 to 31, before anything else in it (rules R35, R75, R77; decision D10;
  log 6). Safe: the real circuit
  drives some outputs, and the model claims none. -/
  | reservedOpcode
  /-- Raised by a host step, of an implemented opcode, whose operand names `OUT` of a step that recorded none, so that a port has no definite
  value (rule R83 item (1), U11; log 16). Safe: the model's domain is definite inputs. -/
  | undrivenOperand
  deriving DecidableEq, Repr

/-- The state before any evaluation. The spec has no reset and no stored value (rules R19, R82); the values are the
model's (log 2, log 5, log 14): the inputs at 0, the outputs the ALU drives for them, nothing loaded by the host. -/
def State.reset : State where
  func := 0
  a := 0
  b := 0
  out := 0
  less := false
  equal := true
  positive := false
  cout := false
  draws := 0
  pending := []
  record := []

end Sys2Proof.Machine
end

