-- ==== Sys2Proof/Machine/Flags.lean ====
section
/-! DEFINITION. The four flags (44_flags.md). `State.driveFlags` is the spec's `Flags(R, c)`; this file is the only
place where what that does is defined. -/

namespace Sys2Proof.Machine

/-- `A <u B` (rule R68): the operands are compared as unsigned bytes (log 7). -/
def lessFlag (a b : Byte) : Bool :=
  a.ult b

/-- `A == B` (rule R69, log 7). -/
def equalFlag (a b : Byte) : Bool :=
  a == b

/-- `(R[7] == 0) and (R != 0x00)` (rule R70, log 8). -/
def positiveFlag (r : Byte) : Bool :=
  !r.getLsbD 7 && r != 0x00#8

/-- `Flags(R, c)` (rule R67). `LESS` and `EQUAL` compare the two input ports, whatever the operation. -/
def State.driveFlags (r : Byte) (c : Bool) (s : State) : State :=
  { s with
    less := lessFlag s.a s.b
    equal := equalFlag s.a s.b
    positive := positiveFlag r
    cout := c }

/-- The named flag of a record of outputs. -/
def Outputs.flag (o : Outputs) : Flag → Bool
  | .less => o.less
  | .equal => o.equal
  | .positive => o.positive
  | .cout => o.cout

end Sys2Proof.Machine
end

