-- ==== Sys2Proof/Machine/Operands.lean ====
section
/-! DEFINITION. Operands. Those of an operation are whole input ports or a built-in constant (rule R36); those of a host
step are resolved against the host's record (decision D22). -/

namespace Sys2Proof.Machine

/-- The constant of INC and DEC, built into the operation and not encoded (rule R36). -/
def constantOne : Byte :=
  0x01#8

/-- The value a host operand puts on a port, with the state after reading it: `-` draws a free value (log 17), and
`OUT` of a step that recorded none gives no value (log 16). `OUT` of a CMP is the free value that was recorded, although
the host has a duty not to use it (rule R83 item (4)): DESIGN CHOICE, log 23. -/
def State.readHostOperand (s : State) : HostOperand → Option (Byte × State)
  | .lit v => some (v, s)
  | .outOf j =>
    match s.record[j]? with
    | some (some o) => some (o.out, s)
    | some none => none
    | none => none
  | .any => some (Config.anyOperand s.draws, { s with draws := s.draws + 1 })

end Sys2Proof.Machine
end

