-- ==== Sys2Proof/Machine/Ops.lean ====
section
/-! DEFINITION. The operations that the meanings share: the adder, the three shifts, driving the outputs, drawing a free
value, and the host's driving and recording. There is no operation that takes an exception or returns from one: the
hardware has none (rules R74, R78, R79; log 13). -/

namespace Sys2Proof.Machine

/-- The adder's 9-bit value `{carry, sum}` for operands `x`, `y` and carry-in `c0`, in the integer form of rule R46
(log 20). `Datapath.lean` has the bit-level form. -/
def adder (x y : Byte) (c0 : Bool) : BitVec 9 :=
  x.zeroExtend 9 + y.zeroExtend 9 + (BitVec.ofBool c0).zeroExtend 9

/-- `S[7:0]` of a 9-bit sum. -/
def sumOf (s9 : BitVec 9) : Byte :=
  s9.extractLsb' 0 8

/-- `S[8]` of a 9-bit sum: the carry out. -/
def carryOf (s9 : BitVec 9) : Bool :=
  s9.getLsbD 8

/-- `A - B` on the adder, `A + ~B + 1`, with its carry (rules R42, R48). -/
def subtractor (x y : Byte) : BitVec 9 :=
  adder x (~~~y) true

/-- `{A[6:0], 0}` (rule R58). -/
def shiftLeft (v : Byte) : Byte :=
  v.extractLsb' 0 7 ++ 0#1

/-- `{0, A[7:1]}` (rule R59). -/
def shiftRight (v : Byte) : Byte :=
  0#1 ++ v.extractLsb' 1 7

/-- `{A[7], A[7:1]}` (rule R60). -/
def shiftRightArith (v : Byte) : Byte :=
  v.extractLsb' 7 1 ++ v.extractLsb' 1 7

/-- `OUT <- v` (rule R10). -/
def State.driveOut (v : Byte) (s : State) : State :=
  { s with out := v }

/-- `OUT <- r; Flags(OUT, c)`: how every operation but CMP ends. -/
def State.finish (r : Byte) (c : Bool) (s : State) : State :=
  (s.driveOut r).driveFlags r c

/-- One free value has been drawn (`draw N` of rule R10). -/
def State.drawn (s : State) : State :=
  { s with draws := s.draws + 1 }

/-- The five outputs, read together (rule R83 item (3)). -/
def State.outputs (s : State) : Outputs where
  out := s.out
  less := s.less
  equal := s.equal
  positive := s.positive
  cout := s.cout

/-- The host presents the three inputs of an evaluation (rule R83 item (1)). -/
def State.present (func : Opcode) (a b : Byte) (s : State) : State :=
  { s with func := func, a := a, b := b }

/-- The host records one step: its outputs, or `none` for a step left out (decision D22). -/
def State.log (entry : Option Outputs) (s : State) : State :=
  { s with record := s.record ++ [entry] }

/-- The host goes on to the steps `rest`. -/
def State.setPending (rest : List HostStep) (s : State) : State :=
  { s with pending := rest }

/-- The host starts a new sequence, with nothing recorded (decision D22, log 14). -/
def State.load (steps : List HostStep) (s : State) : State :=
  { s with pending := steps, record := [] }

end Sys2Proof.Machine
end

