-- ==== Sys2Proof/Machine/Arithmetic.lean ====
section
/-! DEFINITION. ADD, SUB, INC, DEC (40_arithmetic.md). -/

namespace Sys2Proof.Machine

/-- ADD (rule R47): `S = zext_9(A) + zext_9(B)`. -/
def execAdd (s : State) : Host.Outcome State Fault Refusal :=
  .next (s.finish (sumOf (adder s.a s.b false)) (carryOf (adder s.a s.b false)))

/-- SUB (rule R48): `S = zext_9(A) + zext_9(~B) + 1`; `COUT` is the inverted borrow. -/
def execSub (s : State) : Host.Outcome State Fault Refusal :=
  .next (s.finish (sumOf (subtractor s.a s.b)) (carryOf (subtractor s.a s.b)))

/-- INC (rule R49): `S = zext_9(A) + zext_9(0x01)`; `COUT` is that sum's carry (log 9). -/
def execInc (s : State) : Host.Outcome State Fault Refusal :=
  .next (s.finish (sumOf (adder s.a constantOne false)) (carryOf (adder s.a constantOne false)))

/-- DEC (rule R50): `S = zext_9(A) + zext_9(~0x01) + 1`; `COUT` is that sum's carry (log 10). -/
def execDec (s : State) : Host.Outcome State Fault Refusal :=
  .next (s.finish (sumOf (subtractor s.a constantOne)) (carryOf (subtractor s.a constantOne)))

end Sys2Proof.Machine
end

