-- ==== Sys2Proof/Machine/Logic.lean ====
section
/-! DEFINITION. NAND, NOR, XOR, AND, OR, XNOR (41_logic.md). `COUT` is 0 for all of them (rule R51). -/

namespace Sys2Proof.Machine

/-- NAND (rule R52). -/
def execNand (s : State) : Host.Outcome State Fault Refusal :=
  .next (s.finish (~~~(s.a &&& s.b)) false)

/-- NOR (rule R53). -/
def execNor (s : State) : Host.Outcome State Fault Refusal :=
  .next (s.finish (~~~(s.a ||| s.b)) false)

/-- XOR (rule R54). -/
def execXor (s : State) : Host.Outcome State Fault Refusal :=
  .next (s.finish (s.a ^^^ s.b) false)

/-- AND (rule R55). -/
def execAnd (s : State) : Host.Outcome State Fault Refusal :=
  .next (s.finish (s.a &&& s.b) false)

/-- OR (rule R56). -/
def execOr (s : State) : Host.Outcome State Fault Refusal :=
  .next (s.finish (s.a ||| s.b) false)

/-- XNOR (rule R57). -/
def execXnor (s : State) : Host.Outcome State Fault Refusal :=
  .next (s.finish (~~~(s.a ^^^ s.b)) false)

end Sys2Proof.Machine
end

