-- ==== Sys2Proof/Machine/Shift.lean ====
section
/-! DEFINITION. LSL, LSR, ASR, each by one position (42_shift.md). `COUT` is the bit shifted out. -/

namespace Sys2Proof.Machine

/-- LSL (rule R58). -/
def execLsl (s : State) : Host.Outcome State Fault Refusal :=
  .next (s.finish (shiftLeft s.a) (s.a.getLsbD 7))

/-- LSR (rule R59). -/
def execLsr (s : State) : Host.Outcome State Fault Refusal :=
  .next (s.finish (shiftRight s.a) (s.a.getLsbD 0))

/-- ASR (rule R60). -/
def execAsr (s : State) : Host.Outcome State Fault Refusal :=
  .next (s.finish (shiftRightArith s.a) (s.a.getLsbD 0))

end Sys2Proof.Machine
end

