-- ==== Sys2Proof/Machine/Special.lean ====
section
/-! DEFINITION. CMP, REV, PASSA, PASSB, NOTA, NOTB (43_special.md). -/

namespace Sys2Proof.Machine

/-- CMP (rule R61): the flags of the internal difference `D` (log 11); `OUT` is a free byte (log 3). -/
def execCmp (s : State) : Host.Outcome State Fault Refusal :=
  .next (((s.driveOut (Config.cmpOut s.draws)).driveFlags (sumOf (subtractor s.a s.b))
    (carryOf (subtractor s.a s.b))).drawn)

/-- REV (rule R62): `OUT` is `A` with its bits reversed; `COUT` is a free bit (log 4). -/
def execRev (s : State) : Host.Outcome State Fault Refusal :=
  .next ((s.finish (rev8 s.a) (Config.revCout s.draws)).drawn)

/-- PASSA (rule R63); `COUT` is 0 (rule R51, log 12). -/
def execPassa (s : State) : Host.Outcome State Fault Refusal :=
  .next (s.finish s.a false)

/-- PASSB (rule R64); `COUT` is 0 (rule R51, log 12). -/
def execPassb (s : State) : Host.Outcome State Fault Refusal :=
  .next (s.finish s.b false)

/-- NOTA (rule R65); `COUT` is 0 (rule R51, log 12). -/
def execNota (s : State) : Host.Outcome State Fault Refusal :=
  .next (s.finish (~~~s.a) false)

/-- NOTB (rule R66); `COUT` is 0 (rule R51, log 12). -/
def execNotb (s : State) : Host.Outcome State Fault Refusal :=
  .next (s.finish (~~~s.b) false)

end Sys2Proof.Machine
end

