-- ==== Sys2Proof/Machine/Dispatch.lean ====
section
/-! DEFINITION. One arm per operation: the case distinction of `eval` in rule R10. -/

namespace Sys2Proof.Machine

def exec (i : Instr) (s : State) : Host.Outcome State Fault Refusal :=
  match i with
  | .add => Sys2Proof.Machine.execAdd s
  | .sub => Sys2Proof.Machine.execSub s
  | .inc => Sys2Proof.Machine.execInc s
  | .dec => Sys2Proof.Machine.execDec s
  | .lsl => Sys2Proof.Machine.execLsl s
  | .lsr => Sys2Proof.Machine.execLsr s
  | .asr => Sys2Proof.Machine.execAsr s
  | .rev => Sys2Proof.Machine.execRev s
  | .nand => Sys2Proof.Machine.execNand s
  | .nor => Sys2Proof.Machine.execNor s
  | .xor => Sys2Proof.Machine.execXor s
  | .passa => Sys2Proof.Machine.execPassa s
  | .passb => Sys2Proof.Machine.execPassb s
  | .and => Sys2Proof.Machine.execAnd s
  | .or => Sys2Proof.Machine.execOr s
  | .xnor => Sys2Proof.Machine.execXnor s
  | .cmp => Sys2Proof.Machine.execCmp s
  | .nota => Sys2Proof.Machine.execNota s
  | .notb => Sys2Proof.Machine.execNotb s

end Sys2Proof.Machine
end

