-- ==== Sys2Proof/Machine/Evaluate.lean ====
section
/-! DEFINITION. One evaluation of the ports as they are driven (rules R3, R10, R35), and one turn of the host
(decision D22). -/

namespace Sys2Proof.Machine

/-- One evaluation: `FUNC` is decoded, a reserved value is refused before anything else (rules R35, R77), and the
operation drives the outputs from the ports. -/
def evaluate (s : State) : Host.Outcome State Fault Refusal :=
  match decode s.func with
  | some i => exec i s
  | none => .refused .reservedOpcode

/-- Does a guard hold? It holds if the step it names was evaluated and the flag recorded for that step is the one
expected; a guard on a step that was left out does not hold (log 15). A guard on `COUT` of a REV reads the free bit that
was recorded, although the host has a duty not to use it (rule R83 item (4)): DESIGN CHOICE, log 23. -/
def guardHolds (record : List (Option Outputs)) : Option HostGuard → Bool
  | none => true
  | some g =>
    match record[g.step]? with
    | some (some o) => o.flag g.flag == g.expect
    | some none => false
    | none => false

/-- The host's recording of the evaluation it has just had made. -/
def recordEvaluation : Host.Outcome State Fault Refusal → Host.Outcome State Fault Refusal
  | .next t => .next (t.log (some t.outputs))
  | .fault r => .fault r
  | .refused r => .refused r

/-- The host presents the opcode and both operands of step `h`, all definite (rule R83 item (1)), for one evaluation, and
records its outputs. -/
def presentHostStep (h : HostStep) (rest : List HostStep) (s : State) : Host.Outcome State Fault Refusal :=
  match s.readHostOperand h.a with
  | none => .refused .undrivenOperand
  | some (a, s1) =>
    match s1.readHostOperand h.b with
    | none => .refused .undrivenOperand
    | some (b, s2) => recordEvaluation (evaluate ((s2.setPending rest).present h.func a b))

/-- The host makes the evaluation of step `h`, whose guard holds, and goes on to `rest`. The refusal of a reserved opcode
depends on `FUNC` alone and is decided before anything else, the operands included (rules R75, R77). -/
def takeHostStep (h : HostStep) (rest : List HostStep) (s : State) : Host.Outcome State Fault Refusal :=
  match decode h.func with
  | none => .refused .reservedOpcode
  | some _ => presentHostStep h rest s

/-- The host's turn at step `h`: it is taken if its guard holds; otherwise the ports stay as they are and the host
records that the step was left out (decision D22). -/
def hostTurn (h : HostStep) (rest : List HostStep) (s : State) : Host.Outcome State Fault Refusal :=
  if guardHolds s.record h.guard then takeHostStep h rest s
  else .next ((s.setPending rest).log none)

/-- One step of the machine: the next step of the host's sequence, or, when none is pending, one evaluation of the
ports as they stand (log 18). -/
def machineStep (s : State) : Host.Outcome State Fault Refusal :=
  match s.pending with
  | [] => evaluate s
  | h :: rest => hostTurn h rest s

/-- `s` with the instruction word `w` driven on `FUNC` and no host step to be taken first, so that the next step
evaluates that word. `FUNC` carries the word's five low bits (log 22). -/
def State.driveWord (s : State) (nbits w : Nat) : State :=
  { s with func := BitVec.ofNat 5 (tableWord nbits w), pending := [] }

end Sys2Proof.Machine
end

