-- ==== Sys2Proof/Machine/Step.lean ====
section
/-! DEFINITION. The step of the machine, and how an instruction word comes to be the next one. -/

namespace Sys2Proof.Machine

/-- One step: one evaluation, or one host step whose guard leaves it out (log 1, log 14). -/
def step (s : State) : Host.Outcome State Fault Refusal :=
  machineStep s

/-- `s` with the word `w` as the very next instruction: the hardware fetches nothing, its opcode is an input port
(rules R13, R29), so the word is driven there. -/
def State.withFetchWord (s : State) (nbits w : Nat) : State :=
  s.driveWord nbits w

end Sys2Proof.Machine
end

