-- ==== Sys2Proof/Machine/Datapath.lean ====
section
/-! DEFINITION. The structure the source describes beneath the operations: the control signals and their decode table
(rules R37, R38, R40), the result path (rule R41), the adder's operand path (rule R42) and the ripple-carry adder
(rule R46). None of it is state (rule R18), and `exec` decodes on `FUNC` itself (rule R39): claims hold the two against
each other. -/

namespace Sys2Proof.Machine

/-- One row of the Control Signal Decode Table (rule R38); `none` is a cell `x` or `xxx`, whose value does not
matter. -/
structure ControlRow where
  m : Option Bool
  muxSel : Bool
  invOut : Bool
  logicSel : Option (BitVec 3)
  deriving DecidableEq, Repr

/-- The Control Signal Decode Table (rule R38). -/
def controlRow : Instr → ControlRow
  | .add => ⟨some false, false, false, none⟩
  | .sub => ⟨some true, false, false, none⟩
  | .inc => ⟨some false, false, false, none⟩
  | .dec => ⟨some true, false, false, none⟩
  | .lsl => ⟨none, false, false, none⟩
  | .lsr => ⟨none, false, false, none⟩
  | .asr => ⟨none, false, false, none⟩
  | .rev => ⟨none, false, false, none⟩
  | .nand => ⟨none, true, false, some 0b000#3⟩
  | .nor => ⟨none, true, false, some 0b001#3⟩
  | .xor => ⟨none, true, false, some 0b010#3⟩
  | .passa => ⟨none, true, false, some 0b011#3⟩
  | .passb => ⟨none, true, false, some 0b100#3⟩
  | .and => ⟨none, true, true, some 0b000#3⟩
  | .or => ⟨none, true, true, some 0b001#3⟩
  | .xnor => ⟨none, true, true, some 0b010#3⟩
  | .cmp => ⟨some true, false, false, none⟩
  | .nota => ⟨none, true, true, some 0b011#3⟩
  | .notb => ⟨none, true, true, some 0b100#3⟩

/-- Values of the four control signals (rule R37). -/
structure Signals where
  m : Bool
  muxSel : Bool
  invOut : Bool
  logicSel : BitVec 3
  deriving DecidableEq, Repr

/-- The signals have the values a row gives; a don't-care cell allows every value. -/
def Signals.fits (g : Signals) (row : ControlRow) : Bool :=
  row.m.all (· == g.m) && row.muxSel == g.muxSel && row.invOut == g.invOut && row.logicSel.all (· == g.logicSel)

/-- The XOR array on the adder's second operand: `B'[i] = B[i] ^ M` (rule R42). -/
def xorArray (v : Byte) (m : Bool) : Byte :=
  ofBits 8 fun i => v.getLsbD i ^^ m

/-- `Sum = A ⊕ B ⊕ Cin` of one full-adder cell (rule R46). -/
def cellSum (x y cin : Bool) : Bool :=
  (x ^^ y) ^^ cin

/-- `Cout = AB + Cin(A ⊕ B)` of one full-adder cell (rule R46). -/
def cellCarry (x y cin : Bool) : Bool :=
  (x && y) || (cin && (x ^^ y))

/-- `c[i]` of the carry chain: each cell's carry out is the next cell's carry in (rule R46, log 20). -/
def carryChain (x y : Byte) (c0 : Bool) : Nat → Bool
  | 0 => c0
  | i + 1 => cellCarry (x.getLsbD i) (y.getLsbD i) (carryChain x y c0 i)

/-- `s[7:0]` of the ripple-carry adder (rule R46). -/
def rippleSum (x y : Byte) (c0 : Bool) : Byte :=
  ofBits 8 fun i => cellSum (x.getLsbD i) (y.getLsbD i) (carryChain x y c0 i)

/-- `c[8]` of the ripple-carry adder (rule R46). -/
def rippleCarry (x y : Byte) (c0 : Bool) : Bool :=
  carryChain x y c0 8

/-- The adder with its operand path: `A + B' + M`, where `M` is the carry-in too (rule R42). -/
def adderPath (x y : Byte) (m : Bool) : Byte :=
  rippleSum x (xorArray y m) m

/-- The carry out of the adder with its operand path. -/
def adderPathCarry (x y : Byte) (m : Bool) : Bool :=
  rippleCarry x (xorArray y m) m

/-- The arithmetic unit: the adder, its second operand the port or the constant 1, the shifts, the bit reversal (rule
R41). What chooses among them is not named by the source (rule R39), so the operation itself does (log 21).
`discarded` is what the unit shows during a logic operation, which the multiplexer discards (rule R51). -/
def arithmeticUnit (i : Instr) (m : Bool) (a b discarded : Byte) : Byte :=
  match i with
  | .add | .sub | .cmp => adderPath a b m
  | .inc | .dec => adderPath a constantOne m
  | .lsl => shiftLeft a
  | .lsr => shiftRight a
  | .asr => shiftRightArith a
  | .rev => rev8 a
  | .nand | .nor | .xor | .passa | .passb | .and | .or | .xnor | .nota | .notb => discarded

/-- The logic unit (rule R41). The codes `101`, `110`, `111` are used by no operation and have no meaning (rule R40,
U4). -/
def logicUnit (logicSel : BitVec 3) (a b : Byte) : Option Byte :=
  match logicSel.toNat with
  | 0 => some (~~~(a &&& b))
  | 1 => some (~~~(a ||| b))
  | 2 => some (a ^^^ b)
  | 3 => some a
  | 4 => some b
  | _ => none

/-- The multiplexer (rule R41): the arithmetic unit for `MUX_SEL = 0`, the logic unit for `MUX_SEL = 1`. -/
def muxOut (g : Signals) (i : Instr) (a b discarded : Byte) : Option Byte :=
  if g.muxSel then logicUnit g.logicSel a b else some (arithmeticUnit i g.m a b discarded)

/-- The result path: the multiplexer and the global inverter after it (rule R41). -/
def resultPath (g : Signals) (i : Instr) (a b discarded : Byte) : Option Byte :=
  (muxOut g i a b discarded).map fun v => if g.invOut then ~~~v else v

end Sys2Proof.Machine
end

