-- ==== Sys2Proof/Machine/Eval.lean ====
section
/-! DEFINITION. The whole ALU as the pure function `eval` of rule R10, written in the arithmetical and bit-by-bit
reading that the rules give beside their pseudocode. `exec` does not use it: claims hold the two against each other. -/

namespace Sys2Proof.Machine

/-- The free values of one evaluation (rule R6). -/
structure Draws where
  cmpOut : Byte
  revCout : Bool
  deriving DecidableEq, Repr

/-- The vector computed bit by bit from `a` and `b` by a one-bit truth table (rule R51). -/
def bitwise (f : Bool → Bool → Bool) (a b : Byte) : Byte :=
  ofBits 8 fun i => f (a.getLsbD i) (b.getLsbD i)

/-- The flag result `R` of rule R67: the value of `OUT`, for CMP the internal difference `D` (rule R61). -/
def flagResult (i : Instr) (a b : Byte) : Byte :=
  match i with
  | .add => BitVec.ofNat 8 (a.toNat + b.toNat)
  | .sub => BitVec.ofInt 8 ((a.toNat : Int) - b.toNat)
  | .inc => BitVec.ofNat 8 (a.toNat + 1)
  | .dec => BitVec.ofInt 8 ((a.toNat : Int) - 1)
  | .lsl => BitVec.ofNat 8 (2 * a.toNat)
  | .lsr => BitVec.ofNat 8 (a.toNat / 2)
  | .asr => BitVec.ofInt 8 (a.toInt / 2)
  | .rev => ofBits 8 fun i => a.getLsbD (7 - i)
  | .nand => bitwise (fun x y => !(x && y)) a b
  | .nor => bitwise (fun x y => !(x || y)) a b
  | .xor => bitwise (fun x y => x != y) a b
  | .passa => bitwise (fun x _ => x) a b
  | .passb => bitwise (fun _ y => y) a b
  | .and => bitwise (fun x y => x && y) a b
  | .or => bitwise (fun x y => x || y) a b
  | .xnor => bitwise (fun x y => x == y) a b
  | .cmp => BitVec.ofInt 8 ((a.toNat : Int) - b.toNat)
  | .nota => bitwise (fun x _ => !x) a b
  | .notb => bitwise (fun _ y => !y) a b

/-- The table of rule R71, its "Equal to" column. -/
def carryResult (i : Instr) (a b : Byte) (revCout : Bool) : Bool :=
  match i with
  | .add => decide (256 ≤ a.toNat + b.toNat)
  | .sub | .cmp => decide (b.toNat ≤ a.toNat)
  | .inc => decide (a.toNat = 255)
  | .dec => decide (a.toNat ≠ 0)
  | .lsl => decide (128 ≤ a.toNat)
  | .lsr | .asr => decide (a.toNat % 2 = 1)
  | .rev => revCout
  | .nand | .nor | .xor | .passa | .passb | .and | .or | .xnor | .nota | .notb => false

/-- `OUT`: the flag result, but the free value during CMP (rule R61). -/
def outResult (i : Instr) (a b : Byte) (cmpOut : Byte) : Byte :=
  match i with
  | .cmp => cmpOut
  | .add | .sub | .inc | .dec | .lsl | .lsr | .asr | .rev | .nand | .nor | .xor | .passa | .passb | .and | .or | .xnor
  | .nota | .notb => flagResult i a b

/-- `eval(FUNC, A, B)` of rule R10 for an implemented opcode, with the draws as an extra input. `LESS` and `EQUAL` read
the ports as numbers (rules R68, R69); `POSITIVE` reads the flag result as a signed number (rule R70). -/
def eval (i : Instr) (a b : Byte) (d : Draws) : Outputs where
  out := outResult i a b d.cmpOut
  less := decide (a.toNat < b.toNat)
  equal := decide (a.toNat = b.toNat)
  positive := decide (0 < (flagResult i a b).toInt)
  cout := carryResult i a b d.revCout

/-- Which operations draw a free value (rule R6). -/
def drawCount : Instr → Nat
  | .cmp | .rev => 1
  | .add | .sub | .inc | .dec | .lsl | .lsr | .asr => 0
  | .nand | .nor | .xor | .passa | .passb | .and | .or | .xnor | .nota | .notb => 0

end Sys2Proof.Machine
end

