-- ==== Sys2Proof/WellFormed.lean ====
section
/-! DEFINITION. Which host sequences are well formed (decision D22, rule R43). An `Instr` has no fields (rule R36), so
there is nothing to check in one: every `Instr` is well formed. -/

namespace Sys2Proof

/-- An operand of step `k`: a step number it names is an earlier one (D22), and `-` stands only on a port that the
operation's `OUT` ignores (rule R43). -/
def HostOperand.wf (k : Nat) (ignored : Bool) : HostOperand → Bool
  | .lit _ => true
  | .outOf j => decide (j < k)
  | .any => ignored

/-- A guard of step `k` names an earlier step (D22). -/
def HostGuard.wf (k : Nat) (g : HostGuard) : Bool :=
  decide (g.step < k)

/-- Step `k` of a host sequence is well formed: it drives an implemented opcode (rule R83 item (2)), and its operands
and guard are well formed. That the host does not use `OUT` of a CMP or `COUT` of a REV (rule R83 item (4)) is not checked:
DESIGN CHOICE, log 23. -/
def HostStep.wf (k : Nat) (h : HostStep) : Bool :=
  match decode h.func with
  | none => false
  | some i => h.a.wf k i.outIgnoresA && h.b.wf k i.outIgnoresB && h.guard.all (HostGuard.wf k)

/-- The steps of a host sequence from number `k` on are well formed. -/
def HostSequence.wfFrom : Nat → List HostStep → Bool
  | _, [] => true
  | k, h :: rest => h.wf k && HostSequence.wfFrom (k + 1) rest

/-- A whole host sequence is well formed; its steps are numbered from 0. -/
def HostSequence.wf (steps : List HostStep) : Bool :=
  HostSequence.wfFrom 0 steps

end Sys2Proof
end

