-- ==== Sys2Proof/Safety.lean ====
section
/-! DEFINITION. What counts as a safe state and a safe run, and the terms the claims are stated in. -/

namespace Sys2Proof.Machine

/-- `s` with the five outputs of one evaluation on its output ports and everything else as it was: the frame of every
operation. -/
def State.showing (o : Outputs) (s : State) : State :=
  { s with out := o.out, less := o.less, equal := o.equal, positive := o.positive, cout := o.cout }

/-- `s` with `OUT = out`, the flags of the flag result `r` in the numeric reading of rules R68 to R70, and
`COUT = c`. -/
def State.shows (out r : Byte) (c : Bool) (s : State) : State :=
  s.showing
    { out := out
      less := decide (s.a.toNat < s.b.toNat)
      equal := decide (s.a.toNat = s.b.toNat)
      positive := decide (0 < r.toInt)
      cout := c }

/-- The free values an evaluation at `s` draws. -/
def State.draw (s : State) : Draws where
  cmpOut := Config.cmpOut s.draws
  revCout := Config.revCout s.draws

/-- The outputs shown are those of an evaluation of the inputs shown (rules R3, R19). -/
def OutputsConform (s : State) : Prop :=
  ∃ i d, decode s.func = some i ∧ s.outputs = eval i s.a s.b d

/-- Outputs that some evaluation can give. -/
def Possible (o : Outputs) : Prop :=
  ∃ i a b d, o = eval i a b d

/-- Everything the host has recorded came from an evaluation. -/
def RecordConforms (s : State) : Prop :=
  ∀ o, some o ∈ s.record → Possible o

/-- The invariant of the machine. -/
structure Inv (s : State) : Prop where
  outputs : OutputsConform s
  record : RecordConforms s

/-- Nothing changes from `s` to `t` but the output ports and the count of draws. -/
structure OnlyOutputsChange (s t : State) : Prop where
  func : t.func = s.func
  a : t.a = s.a
  b : t.b = s.b
  pending : t.pending = s.pending
  record : t.record = s.record

/-- A host operand has the definite value `v`, given what has been recorded (decision D22). -/
def OperandHasValue (record : List (Option Outputs)) (op : HostOperand) (v : Byte) : Prop :=
  op = .lit v ∨ ∃ j o, op = .outOf j ∧ record[j]? = some (some o) ∧ o.out = v

/-- A host sequence without guards: a straight line of evaluations. -/
def StraightLine (steps : List HostStep) : Prop :=
  ∀ h ∈ steps, h.guard = none

/-- A run of `n` steps from `s` is safe: it ends neither in a fault nor in a refusal. -/
def SafeRun (n : Nat) (s : State) : Prop :=
  ∃ t, Host.Core.run Sys2Proof.core n s = .next t

end Sys2Proof.Machine
end

