-- ==== Sys2Proof/Certificates/Slice0/Obligations.lean ====
section
/-! DEFINITION. The statements about the ALU. A statement of an operation's result is an equation for the whole next
state, so it says that the operation completes, what it drives, and that nothing else changes (its frame).
`s.shows out r c` is `s` with `OUT = out`, the flags of the flag result `r` read as numbers, and `COUT = c`
(Safety.lean). -/

open Sys2Proof Sys2Proof.Machine

/-! ## Encoding -/

/-- The 19 binary codes, written out bit by bit from the table of 30_encoding.md section 2. -/
def Obligations.OpcodeBitsDecodeAsTabulated : Prop :=
  decode 0b00000#5 = some .add ∧ decode 0b00001#5 = some .sub ∧ decode 0b00010#5 = some .inc ∧
  decode 0b00011#5 = some .dec ∧ decode 0b00100#5 = some .lsl ∧ decode 0b00101#5 = some .lsr ∧
  decode 0b00110#5 = some .asr ∧ decode 0b00111#5 = some .rev ∧ decode 0b01000#5 = some .nand ∧
  decode 0b01001#5 = some .nor ∧ decode 0b01010#5 = some .xor ∧ decode 0b01011#5 = some .passa ∧
  decode 0b01100#5 = some .passb ∧ decode 0b01101#5 = some .and ∧ decode 0b01110#5 = some .or ∧
  decode 0b01111#5 = some .xnor ∧ decode 0b10000#5 = some .cmp ∧ decode 0b10001#5 = some .nota ∧
  decode 0b10010#5 = some .notb

/-- Decode and encode agree, on words as the opcode table numbers them and all the way to the step: the word of an
operation decodes to it and to nothing else, and with that word driven on `FUNC` the very next step runs it. Rests on
log 22 for how a word is laid on `FUNC`. -/
def Obligations.EncodedWordRunsItsOperation : Prop :=
  ∀ (i : Instr) (nbits : Nat), 5 ≤ nbits →
    (∀ w, decodeTableWord nbits w = some i ↔ tableWord nbits w = (encode i).toNat) ∧
    (encode i).toNat ≤ 18 ∧
    ∀ s : State, step (s.withFetchWord nbits (encode i).toNat) = exec i { s with func := encode i, pending := [] }

/-- A reserved opcode is refused whatever the operands, and it is the only thing an evaluation of the ports is refused
for. The spec's own choice (D10, log 6): the source gives a reserved opcode no behaviour. -/
def Obligations.EvaluationRefusedExactlyOnReserved : Prop :=
  ∀ s : State, s.pending = [] →
    (step s = .refused .reservedOpcode ↔ 19 ≤ s.func.toNat) ∧
    ((∃ r, step s = .refused r) ↔ 19 ≤ s.func.toNat) ∧
    ((∃ t, step s = .next t) ↔ s.func.toNat ≤ 18)

/-- The Control Signal Decode Table (rule R38), row by row: M, MUX_SEL, INV_OUT, LOGIC_SEL; `none` is `x`. -/
def Obligations.ControlSignalsAsTabulated : Prop :=
  controlRow .add = ⟨some false, false, false, none⟩ ∧ controlRow .sub = ⟨some true, false, false, none⟩ ∧
  controlRow .inc = ⟨some false, false, false, none⟩ ∧ controlRow .dec = ⟨some true, false, false, none⟩ ∧
  controlRow .lsl = ⟨none, false, false, none⟩ ∧ controlRow .lsr = ⟨none, false, false, none⟩ ∧
  controlRow .asr = ⟨none, false, false, none⟩ ∧ controlRow .rev = ⟨none, false, false, none⟩ ∧
  controlRow .nand = ⟨none, true, false, some 0b000#3⟩ ∧ controlRow .nor = ⟨none, true, false, some 0b001#3⟩ ∧
  controlRow .xor = ⟨none, true, false, some 0b010#3⟩ ∧ controlRow .passa = ⟨none, true, false, some 0b011#3⟩ ∧
  controlRow .passb = ⟨none, true, false, some 0b100#3⟩ ∧ controlRow .and = ⟨none, true, true, some 0b000#3⟩ ∧
  controlRow .or = ⟨none, true, true, some 0b001#3⟩ ∧ controlRow .xnor = ⟨none, true, true, some 0b010#3⟩ ∧
  controlRow .cmp = ⟨some true, false, false, none⟩ ∧ controlRow .nota = ⟨none, true, true, some 0b011#3⟩ ∧
  controlRow .notb = ⟨none, true, true, some 0b100#3⟩

/-! ## A step -/

/-- With no host step pending, a step is exactly `exec` of the operation on `FUNC`: it adds nothing around it. -/
def Obligations.StepRunsDecodedOperation : Prop :=
  ∀ (s : State) (i : Instr), s.pending = [] → decode s.func = some i → step s = exec i s

/-- A pending host step whose guard holds and whose operands have values runs the operation it names on those values,
and the host then records the outputs (decision D22, log 14). -/
def Obligations.HostStepRunsDecodedOperation : Prop :=
  ∀ (s : State) (h : HostStep) (rest : List HostStep) (i : Instr) (x y : Byte),
    s.pending = h :: rest → guardHolds s.record h.guard = true → decode h.func = some i →
    OperandHasValue s.record h.a x → OperandHasValue s.record h.b y →
    ∃ t, exec i { s with func := h.func, a := x, b := y, pending := rest } = .next t ∧
      step s = .next { t with record := s.record ++ [some t.outputs] }

/-! ## Results: arithmetic -/

/-- ADD (40_arithmetic.md section 2). That `POSITIVE` of a sum with bit 7 set is 0, where the source prints 1, is the
spec's choice D13, made in conflict C1 (log 8). -/
def Obligations.AddGivesSumModulo256 : Prop :=
  decode 0b00000#5 = some .add ∧ controlRow .add = ⟨some false, false, false, none⟩ ∧
  ∀ s : State, ∃ r, r = BitVec.ofNat 8 ((s.a.toNat + s.b.toNat) % 256) ∧
    exec .add s = .next (s.shows r r (decide (256 ≤ s.a.toNat + s.b.toNat)))

/-- SUB (rule R48). -/
def Obligations.SubGivesDifferenceModulo256 : Prop :=
  decode 0b00001#5 = some .sub ∧ controlRow .sub = ⟨some true, false, false, none⟩ ∧
  ∀ s : State, ∃ r, r = BitVec.ofNat 8 ((256 + s.a.toNat - s.b.toNat) % 256) ∧
    exec .sub s = .next (s.shows r r (decide (s.b.toNat ≤ s.a.toNat)))

/-- INC (40_arithmetic.md section 4). That `COUT` is the adder's carry is the spec's choice D14 (log 9), that `LESS`
and `EQUAL` compare the ports and not the constant is D12 (log 7). -/
def Obligations.IncGivesSuccessorModulo256 : Prop :=
  decode 0b00010#5 = some .inc ∧
  ∀ s : State, ∃ r, r = BitVec.ofNat 8 ((s.a.toNat + 1) % 256) ∧
    exec .inc s = .next (s.shows r r (decide (s.a = 0xFF#8)))

/-- DEC (40_arithmetic.md section 5). The sum and its `COUT` are the spec's choice D15 (log 10), that `LESS` and
`EQUAL` compare the ports and not the constant is D12 (log 7). -/
def Obligations.DecGivesPredecessorModulo256 : Prop :=
  decode 0b00011#5 = some .dec ∧
  ∀ s : State, ∃ r, r = BitVec.ofNat 8 ((s.a.toNat + 255) % 256) ∧
    exec .dec s = .next (s.shows r r (decide (s.a ≠ 0x00#8)))

/-! ## Results: shifts -/

/-- LSL (rule R58). -/
def Obligations.LslMovesBitsUp : Prop :=
  decode 0b00100#5 = some .lsl ∧
  ∀ s : State, ∃ r, exec .lsl s = .next (s.shows r r (s.a.getLsbD 7)) ∧
    r.getLsbD 0 = false ∧ ∀ k, 1 ≤ k → k ≤ 7 → r.getLsbD k = s.a.getLsbD (k - 1)

/-- LSR (rule R59). -/
def Obligations.LsrMovesBitsDown : Prop :=
  decode 0b00101#5 = some .lsr ∧
  ∀ s : State, ∃ r, exec .lsr s = .next (s.shows r r (s.a.getLsbD 0)) ∧
    r.getLsbD 7 = false ∧ ∀ k, k ≤ 6 → r.getLsbD k = s.a.getLsbD (k + 1)

/-- ASR (rule R60). -/
def Obligations.AsrMovesBitsDownKeepingSign : Prop :=
  decode 0b00110#5 = some .asr ∧
  ∀ s : State, ∃ r, exec .asr s = .next (s.shows r r (s.a.getLsbD 0)) ∧
    r.getLsbD 7 = s.a.getLsbD 7 ∧ ∀ k, k ≤ 6 → r.getLsbD k = s.a.getLsbD (k + 1)

/-! ## Results: logic -/

/-- NAND (rule R52). -/
def Obligations.NandByTruthTable : Prop :=
  decode 0b01000#5 = some .nand ∧ controlRow .nand = ⟨none, true, false, some 0b000#3⟩ ∧
  ∀ s : State, ∃ r, exec .nand s = .next (s.shows r r false) ∧
    ∀ k, k < 8 → r.getLsbD k = !(s.a.getLsbD k && s.b.getLsbD k)

/-- NOR (rule R53). -/
def Obligations.NorByTruthTable : Prop :=
  decode 0b01001#5 = some .nor ∧ controlRow .nor = ⟨none, true, false, some 0b001#3⟩ ∧
  ∀ s : State, ∃ r, exec .nor s = .next (s.shows r r false) ∧
    ∀ k, k < 8 → r.getLsbD k = !(s.a.getLsbD k || s.b.getLsbD k)

/-- XOR (rule R54). -/
def Obligations.XorByTruthTable : Prop :=
  decode 0b01010#5 = some .xor ∧ controlRow .xor = ⟨none, true, false, some 0b010#3⟩ ∧
  ∀ s : State, ∃ r, exec .xor s = .next (s.shows r r false) ∧
    ∀ k, k < 8 → r.getLsbD k = (s.a.getLsbD k != s.b.getLsbD k)

/-- AND (rule R55). -/
def Obligations.AndByTruthTable : Prop :=
  decode 0b01101#5 = some .and ∧ controlRow .and = ⟨none, true, true, some 0b000#3⟩ ∧
  ∀ s : State, ∃ r, exec .and s = .next (s.shows r r false) ∧
    ∀ k, k < 8 → r.getLsbD k = (s.a.getLsbD k && s.b.getLsbD k)

/-- OR (rule R56). -/
def Obligations.OrByTruthTable : Prop :=
  decode 0b01110#5 = some .or ∧ controlRow .or = ⟨none, true, true, some 0b001#3⟩ ∧
  ∀ s : State, ∃ r, exec .or s = .next (s.shows r r false) ∧
    ∀ k, k < 8 → r.getLsbD k = (s.a.getLsbD k || s.b.getLsbD k)

/-- XNOR (rule R57). -/
def Obligations.XnorByTruthTable : Prop :=
  decode 0b01111#5 = some .xnor ∧ controlRow .xnor = ⟨none, true, true, some 0b010#3⟩ ∧
  ∀ s : State, ∃ r, exec .xnor s = .next (s.shows r r false) ∧
    ∀ k, k < 8 → (r.getLsbD k = true ↔ s.a.getLsbD k = s.b.getLsbD k)

/-! ## Results: special operations -/

/-- CMP (43_special.md, CMP). `OUT` is the free byte `CMP_OUT` (D17, log 3); the statement holds whatever it is. That
`POSITIVE` is taken from the 8-bit difference is the spec's choice D16, that `COUT` is the inverted borrow is D19
(log 11). -/
def Obligations.CmpDrivesFlagsOfDifference : Prop :=
  decode 0b10000#5 = some .cmp ∧ controlRow .cmp = ⟨some true, false, false, none⟩ ∧
  ∀ s : State, ∃ d, d = BitVec.ofNat 8 ((256 + s.a.toNat - s.b.toNat) % 256) ∧
    exec .cmp s = .next { s.shows (Config.cmpOut s.draws) d (decide (s.b.toNat ≤ s.a.toNat)) with
      draws := s.draws + 1 }

/-- REV (43_special.md, REV). `COUT` is the free bit `REV_COUT` (D18, log 4); the statement holds whatever it is. -/
def Obligations.RevReversesBits : Prop :=
  decode 0b00111#5 = some .rev ∧
  ∀ s : State, ∃ r, (∀ k, k < 8 → r.getLsbD k = s.a.getLsbD (7 - k)) ∧
    exec .rev s = .next { s.shows r r (Config.revCout s.draws) with draws := s.draws + 1 }

/-- PASSA (rule R63). -/
def Obligations.PassaCopiesA : Prop :=
  decode 0b01011#5 = some .passa ∧ controlRow .passa = ⟨none, true, false, some 0b011#3⟩ ∧
  ∀ s : State, exec .passa s = .next (s.shows s.a s.a false)

/-- PASSB (rule R64). -/
def Obligations.PassbCopiesB : Prop :=
  decode 0b01100#5 = some .passb ∧ controlRow .passb = ⟨none, true, false, some 0b100#3⟩ ∧
  ∀ s : State, exec .passb s = .next (s.shows s.b s.b false)

/-- NOTA (rule R65). -/
def Obligations.NotaInvertsA : Prop :=
  decode 0b10001#5 = some .nota ∧ controlRow .nota = ⟨none, true, true, some 0b011#3⟩ ∧
  ∀ s : State, ∃ r, exec .nota s = .next (s.shows r r false) ∧ ∀ k, k < 8 → r.getLsbD k = !s.a.getLsbD k

/-- NOTB (rule R66). -/
def Obligations.NotbInvertsB : Prop :=
  decode 0b10010#5 = some .notb ∧ controlRow .notb = ⟨none, true, true, some 0b100#3⟩ ∧
  ∀ s : State, ∃ r, exec .notb s = .next (s.shows r r false) ∧ ∀ k, k < 8 → r.getLsbD k = !s.b.getLsbD k

/-! ## Flags -/

/-- The common shape of the flags (rule R67): every operation drives all four in the evaluation that drives `OUT`,
`LESS` and `EQUAL` from the ports, `POSITIVE` from the final `OUT`, for CMP from the internal difference. -/
def Obligations.FlagsHaveCommonShape : Prop :=
  ∀ (i : Instr) (s : State), ∃ t r, exec i s = .next t ∧
    (i ≠ .cmp → r = t.out) ∧ (i = .cmp → r = BitVec.ofNat 8 ((256 + s.a.toNat - s.b.toNat) % 256)) ∧
    (t.less = true ↔ s.a.toNat < s.b.toNat) ∧ (t.equal = true ↔ s.a = s.b) ∧
    (t.positive = true ↔ r.getLsbD 7 = false ∧ r ≠ 0x00#8) ∧
    t.cout = carryResult i s.a s.b (Config.revCout s.draws)

/-- EQUAL and POSITIVE as the gate formulas of 44_flags.md sections 3 and 4. That the comparator reads the ports for INC
and DEC too is the spec's choice D12 (log 7), that the formula of POSITIVE holds for every operation is D13 (log 8). -/
def Obligations.FlagsMatchGateFormulas : Prop :=
  ∀ (i : Instr) (s : State), ∃ t, exec i s = .next t ∧
    t.equal = !((s.a.getLsbD 7 ^^ s.b.getLsbD 7) || (s.a.getLsbD 6 ^^ s.b.getLsbD 6) ||
      (s.a.getLsbD 5 ^^ s.b.getLsbD 5) || (s.a.getLsbD 4 ^^ s.b.getLsbD 4) || (s.a.getLsbD 3 ^^ s.b.getLsbD 3) ||
      (s.a.getLsbD 2 ^^ s.b.getLsbD 2) || (s.a.getLsbD 1 ^^ s.b.getLsbD 1) || (s.a.getLsbD 0 ^^ s.b.getLsbD 0)) ∧
    ∀ r, r = flagResult i s.a s.b →
      t.positive = (!r.getLsbD 7 && (r.getLsbD 6 || r.getLsbD 5 || r.getLsbD 4 || r.getLsbD 3 || r.getLsbD 2 ||
        r.getLsbD 1 || r.getLsbD 0)) ∧
      (t.positive = true ↔ 1 ≤ r.toNat ∧ r.toNat ≤ 127)

/-- The relations of 44_flags.md section 7, row by row. -/
def Obligations.FlagRelationsHold : Prop :=
  ∀ (i : Instr) (s : State), ∃ t, exec i s = .next t ∧
    ¬(t.less = true ∧ t.equal = true) ∧
    (i ∈ [.sub, .cmp] → t.cout = !t.less) ∧
    (i ∈ [.sub, .cmp, .xor] → (t.equal = true ↔ flagResult i s.a s.b = 0x00#8)) ∧
    (i = .xnor → (t.equal = true ↔ t.out = 0xFF#8)) ∧
    (t.positive = true → flagResult i s.a s.b ≠ 0x00#8) ∧
    (i ∈ [.sub, .cmp, .xor, .xnor] → ¬(t.positive = true ∧ t.equal = true)) ∧
    (i.type = .logic → t.cout = false) ∧
    ∀ j, ∃ u, exec j s = .next u ∧ u.less = t.less ∧ u.equal = t.equal

/-! ## The whole ALU -/

/-- Every operation completes at every state: none can fault and none is refused (60_exceptions.md section 1). -/
def Obligations.EveryOperationCompletes : Prop :=
  ∀ (i : Instr) (s : State), ∃ t, exec i s = .next t

/-- The machine is the pure function `eval` of 00_scope.md section 5: `exec` shows the outputs of `eval`, in the
arithmetical reading, and changes nothing else but the count of draws. That an evaluation is such a function is D1
(log 1). `eval` carries the spec's other choices: the free values D17 and D18 (logs 3, 4), the comparison of the ports
D12 (log 7), POSITIVE D13 (log 8), INC's COUT D14 (log 9), DEC by C4 and D15 (log 10), CMP's flags D16 and D19
(log 11). -/
def Obligations.ExecRefinesEval : Prop :=
  ∀ (i : Instr) (s : State),
    exec i s = .next { s.showing (eval i s.a s.b s.draw) with draws := s.draws + drawCount i }

/-- The frame of every operation: only the output ports change, and the model's count of draws, which only CMP and REV
advance. The inputs are read only; the host's own storage is not the ALU's. -/
def Obligations.OperationsChangeOnlyOutputs : Prop :=
  ∀ (i : Instr) (s t : State), exec i s = .next t →
    OnlyOutputsChange s t ∧ (i ∉ [.cmp, .rev] → t.draws = s.draws) ∧ (i ∈ [.cmp, .rev] → t.draws = s.draws + 1)

/-- Nothing carries over from one evaluation to the next: the outputs of an evaluation are the same whatever the ports
showed before, whatever was recorded, given equal inputs and equal draws (D1, log 1). -/
def Obligations.EvaluationsAreIndependent : Prop :=
  ∀ s u : State, s.pending = [] → u.pending = [] → s.func = u.func → s.a = u.a → s.b = u.b → s.draws = u.draws →
    ∀ t, step s = .next t → ∃ v, step u = .next v ∧ v.outputs = t.outputs ∧ v.draws = t.draws

/-- Which ports `OUT` depends on (30_encoding.md section 4), both ways: an ignored port never matters, a port that is
not ignored sometimes does; and `LESS` and `EQUAL` depend on both ports under every operation (D12, log 7). -/
def Obligations.OutputsDependOnPortsAsTabulated : Prop :=
  (∀ i ∈ [Instr.inc, .dec, .lsl, .lsr, .asr, .rev, .passa, .nota], ∀ (s : State) (y : Byte),
    ∃ t u, exec i s = .next t ∧ exec i { s with b := y } = .next u ∧ u.out = t.out) ∧
  (∀ i ∈ [Instr.passb, .notb], ∀ (s : State) (x : Byte),
    ∃ t u, exec i s = .next t ∧ exec i { s with a := x } = .next u ∧ u.out = t.out) ∧
  (∀ i ∉ [Instr.passb, .notb, .cmp], ∃ (s : State) (x : Byte) (t u : State),
    exec i s = .next t ∧ exec i { s with a := x } = .next u ∧ u.out ≠ t.out) ∧
  (∀ i ∈ [Instr.add, .sub, .nand, .nor, .xor, .and, .or, .xnor, .passb, .notb], ∃ (s : State) (y : Byte) (t u : State),
    exec i s = .next t ∧ exec i { s with b := y } = .next u ∧ u.out ≠ t.out) ∧
  (∀ i : Instr, ∃ (s : State) (x : Byte) (t u : State),
    exec i s = .next t ∧ exec i { s with a := x } = .next u ∧ u.less ≠ t.less ∧ u.equal ≠ t.equal) ∧
  ∀ i : Instr, ∃ (s : State) (y : Byte) (t u : State),
    exec i s = .next t ∧ exec i { s with b := y } = .next u ∧ u.less ≠ t.less ∧ u.equal ≠ t.equal

/-- The free values reach no further than the spec lets them (95_test_vectors.md Q15): with the draws at any two counts,
an operation gives equal outputs, but for `OUT` of CMP and `COUT` of REV. -/
def Obligations.FreeValuesReachOnlyCmpOutAndRevCout : Prop :=
  ∀ (i : Instr) (s : State) (n : Nat), ∃ t u,
    exec i s = .next t ∧ exec i { s with draws := n } = .next u ∧
    t.less = u.less ∧ t.equal = u.equal ∧ t.positive = u.positive ∧
    (i ≠ .cmp → t.out = u.out) ∧ (i ≠ .rev → t.cout = u.cout)

/-- What all logic operations share (rule R51). -/
def Obligations.LogicOperationsAreBitwise : Prop :=
  (∀ i : Instr, i.type = .logic ↔
    i ∈ [.nand, .nor, .xor, .passa, .passb, .and, .or, .xnor, .nota, .notb]) ∧
  (∀ i : Instr, i.type = .logic ↔ (controlRow i).muxSel = true) ∧
  ∀ i : Instr, i.type = .logic → (controlRow i).m = none ∧
    ∃ f : Bool → Bool → Bool, ∀ s : State, ∃ r, exec i s = .next (s.shows r r false) ∧
      ∀ k, k < 8 → r.getLsbD k = f (s.a.getLsbD k) (s.b.getLsbD k)

/-! ## The datapath beneath the operations -/

/-- The result path (30_encoding.md section 6): the logic unit's five functions by `LOGIC_SEL`, the multiplexer, the global inverter. It
computes `OUT` of every operation that drives it, for any signal values that fit the
operation's row of the decode table and whatever the unit that is not selected shows; `POSITIVE` is taken from that
final `OUT`; the derived operations are the base operations with `INV_OUT = 1`, and no arithmetic-unit operation inverts.
That the operation itself chooses inside the arithmetic unit is the model's choice (log 21); that DEC's second operand is
the constant 1 under the XOR array is the spec's choice D15 (log 10); the chain inside the adder is general knowledge G1
(log 20). -/
def Obligations.ResultPathComputesOut : Prop :=
  (∀ (g : Signals) (i : Instr) (x y discarded v : Byte),
    v = (if g.muxSel then [~~~(x &&& y), ~~~(x ||| y), x ^^^ y, x, y].getD g.logicSel.toNat 0x00#8
      else arithmeticUnit i g.m x y discarded) →
    g.logicSel.toNat ≤ 4 → resultPath g i x y discarded = some (if g.invOut then ~~~v else v)) ∧
  (∀ (i : Instr) (s : State) (g : Signals) (discarded : Byte), i ≠ .cmp → g.fits (controlRow i) = true →
    ∃ t, exec i s = .next t ∧ resultPath g i s.a s.b discarded = some t.out ∧
      (t.positive = true ↔ 0 < t.out.toInt)) ∧
  (∀ p ∈ [(Instr.nand, Instr.and), (.nor, .or), (.xor, .xnor), (.passa, .nota), (.passb, .notb)],
    (controlRow p.1).invOut = false ∧ controlRow p.2 = { controlRow p.1 with invOut := true } ∧
    ∀ s : State, ∃ t u, exec p.1 s = .next t ∧ exec p.2 s = .next u ∧ u.out = ~~~t.out) ∧
  (∀ i : Instr, (controlRow i).invOut = true ↔ i ∈ [.and, .or, .xnor, .nota, .notb]) ∧
  ∀ i : Instr, (controlRow i).muxSel = false → (controlRow i).invOut = false

/-- The adder's operand path (30_encoding.md section 6): the XOR array passes B for M = 0 and inverts it for M = 1, and M is the carry-in
too, so the adder computes `A + B`, or `A + ~B + 1`, which is `A - B` modulo 256; for INC and DEC its second operand is
the constant 1, not the port B. That the constant of DEC is 1 under the XOR array is the spec's choice D15 (log 10), that
the operation selects it is the model's (log 21), and the chain inside the adder is general knowledge G1 (log 20). -/
def Obligations.OperandPathAddsOrSubtracts : Prop :=
  ∀ x y : Byte,
    (∀ m k, k < 8 → (xorArray y m).getLsbD k = (y.getLsbD k ^^ m)) ∧
    xorArray y false = y ∧ xorArray y true = ~~~y ∧
    (∀ m, adderPath x y m = sumOf (adder x (xorArray y m) m)) ∧
    (adderPath x y false).toNat = (x.toNat + y.toNat) % 256 ∧
    (adderPath x y true).toNat = (x.toNat + (255 - y.toNat) + 1) % 256 ∧
    adderPath x y true = x - y ∧
    ∀ (m : Bool) (discarded : Byte),
      arithmeticUnit .inc m x y discarded = adderPath x 0x01#8 m ∧
      arithmeticUnit .dec m x y discarded = adderPath x 0x01#8 m

/-- The ripple-carry adder of 40_arithmetic.md section 1: its cell has the eight rows of the truth table, and the chain
of eight cells is integer addition, sum and carry; so is the 9-bit adder the operations use. The chaining is general
knowledge and the equality is derived there (log 20). -/
def Obligations.RippleAdderIsIntegerAddition : Prop :=
  (∀ p ∈ [(false, false, false, false, false), (false, false, true, true, false), (false, true, false, true, false),
      (false, true, true, false, true), (true, false, false, true, false), (true, false, true, false, true),
      (true, true, false, false, true), (true, true, true, true, true)],
    cellSum p.1 p.2.1 p.2.2.1 = p.2.2.2.1 ∧ cellCarry p.1 p.2.1 p.2.2.1 = p.2.2.2.2) ∧
  ∀ (x y : Byte) (c0 : Bool),
    (rippleSum x y c0).toNat + 256 * (rippleCarry x y c0).toNat = x.toNat + y.toNat + c0.toNat ∧
    rippleSum x y c0 = sumOf (adder x y c0) ∧ rippleCarry x y c0 = carryOf (adder x y c0)

/-- `COUT` of the five adder operations is the carry out of the adder path with M from the decode table, its second
operand the port B, or the constant 1 for INC and DEC; and the result path shows the internal difference of CMP, from
which its POSITIVE is taken. The spec's choices D14, D15, D16, D19 (logs 9, 10, 11). -/
def Obligations.AdderPathDrivesCout : Prop :=
  ∀ (i : Instr) (s : State) (g : Signals) (discarded : Byte), g.fits (controlRow i) = true →
    ∃ t, exec i s = .next t ∧
      (i ∈ [.add, .sub, .cmp] → t.cout = adderPathCarry s.a s.b g.m) ∧
      (i ∈ [.inc, .dec] → t.cout = adderPathCarry s.a 0x01#8 g.m) ∧
      (i = .cmp → ∃ d, resultPath g i s.a s.b discarded = some d ∧ (t.positive = true ↔ 0 < d.toInt))

/-! ## Algebra of the operations -/

/-- The identities of 30_encoding.md section 7 (its last rule): PASSA copies, SUB from zero negates, XOR of equal
operands is zero, and CMP gives the flags of SUB. -/
def Obligations.HostIdentitiesHold : Prop :=
  ∀ s : State,
    (∃ t, exec .passa s = .next t ∧ t.out = s.a) ∧
    (s.a = 0x00#8 → ∃ t, exec .sub s = .next t ∧ t.out = -s.b) ∧
    (s.a = s.b → ∃ t, exec .xor s = .next t ∧ t.out = 0x00#8) ∧
    ∃ t u, exec .cmp s = .next t ∧ exec .sub s = .next u ∧
      t.less = u.less ∧ t.equal = u.equal ∧ t.positive = u.positive ∧ t.cout = u.cout

/-- Two evaluations in a row, the first one's `OUT` driven on port A of the second (95_test_vectors.md Q6, Q7, Q8, Q11):
REV undoes REV, DEC undoes INC and INC undoes DEC, NOTA and then INC negates, SUB undoes ADD. -/
def Obligations.TwoStepLawsHold : Prop :=
  ∀ s : State,
    (∃ t u, exec .rev s = .next t ∧ exec .rev { t with a := t.out } = .next u ∧ u.out = s.a) ∧
    (∃ t u, exec .inc s = .next t ∧ exec .dec { t with a := t.out } = .next u ∧ u.out = s.a) ∧
    (∃ t u, exec .dec s = .next t ∧ exec .inc { t with a := t.out } = .next u ∧ u.out = s.a) ∧
    (∃ t u, exec .nota s = .next t ∧ exec .inc { t with a := t.out } = .next u ∧ u.out = -s.a) ∧
    ∃ t u, exec .add s = .next t ∧ exec .sub { t with a := t.out } = .next u ∧ u.out = s.a

/-- The shifts as arithmetic (42_shift.md, their corner cases): LSL doubles, `COUT` the ninth bit; LSR and ASR halve,
the unsigned and the signed value, rounding down, `COUT` the remainder. -/
def Obligations.ShiftsDoubleAndHalve : Prop :=
  ∀ s : State,
    (∃ t, exec .lsl s = .next t ∧ 256 * t.cout.toNat + t.out.toNat = 2 * s.a.toNat) ∧
    (∃ t, exec .lsr s = .next t ∧ s.a.toNat = 2 * t.out.toNat + t.cout.toNat) ∧
    ∃ t, exec .asr s = .next t ∧ s.a.toInt = 2 * t.out.toInt + t.cout.toNat

/-- Operations that agree on some operands (95_test_vectors.md Q4, Q5, Q10): LSL with ADD when both ports carry the same
value, INC with ADD and DEC with SUB when port B carries 1, all five outputs; ADD with its operands exchanged, all but
LESS. -/
def Obligations.OperationsAgreeOnSharedOperands : Prop :=
  ∀ s : State,
    (s.a = s.b → ∃ t u, exec .lsl s = .next t ∧ exec .add s = .next u ∧ t.outputs = u.outputs) ∧
    (s.b = 0x01#8 → ∃ t u, exec .inc s = .next t ∧ exec .add s = .next u ∧ t.outputs = u.outputs) ∧
    (s.b = 0x01#8 → ∃ t u, exec .dec s = .next t ∧ exec .sub s = .next u ∧ t.outputs = u.outputs) ∧
    ∃ t u, exec .add s = .next t ∧ exec .add { s with a := s.b, b := s.a } = .next u ∧
      t.out = u.out ∧ t.equal = u.equal ∧ t.positive = u.positive ∧ t.cout = u.cout

/-! ## Invariant -/

/-- The outputs shown are always those of an evaluation of the inputs shown, and everything the host has recorded came
from an evaluation: every step keeps it, an evaluation of the ports and a step of a host sequence alike. -/
def Obligations.StepKeepsOutputsConforming : Prop :=
  ∀ s t : State, Inv s → step s = .next t → Inv t

/-- The invariant holds at reset. The reset values are the model's (log 2): the spec has no reset. -/
def Obligations.ResetOutputsConform : Prop :=
  Inv State.reset

/-! ## The host's sequence (decision D22: the spec's own choice, log 14) -/

/-- A step with a host step pending uses up exactly that one and records exactly one entry. -/
def Obligations.HostStepUsesOneAndRecordsOne : Prop :=
  ∀ (s t : State) (h : HostStep) (rest : List HostStep), s.pending = h :: rest → step s = .next t →
    t.pending = rest ∧ ∃ entry, t.record = s.record ++ [entry] ∧
      (entry = none ↔ guardHolds s.record h.guard = false) ∧
      (guardHolds s.record h.guard = true → entry = some t.outputs ∧ t.func = h.func)

/-- A host step whose guard does not hold is left out: the ALU's ports stay as they are. -/
def Obligations.GuardLeavesStepOut : Prop :=
  ∀ (s : State) (h : HostStep) (rest : List HostStep), s.pending = h :: rest → guardHolds s.record h.guard = false →
    step s = .next { s with pending := rest, record := s.record ++ [none] }

/-- A guard holds exactly if the step it names was evaluated and recorded the expected flag (log 15). -/
def Obligations.GuardReadsRecordedFlag : Prop :=
  ∀ (record : List (Option Outputs)) (g : HostGuard),
    guardHolds record none = true ∧
    (guardHolds record (some g) = true ↔
      ∃ o, record[g.step]? = some (some o) ∧
        ((g.flag = .less ∧ o.less = g.expect) ∨ (g.flag = .equal ∧ o.equal = g.expect) ∨
         (g.flag = .positive ∧ o.positive = g.expect) ∨ (g.flag = .cout ∧ o.cout = g.expect)))

/-- A host step that is taken is refused exactly if its opcode is reserved or an operand names `OUT` of a step that
recorded none: a reserved opcode is refused in a sequence as it is alone (D10, log 6), and an input must be definite
(log 16). -/
def Obligations.HostStepRefusedExactlyWhen : Prop :=
  ∀ (s : State) (h : HostStep) (rest : List HostStep), s.pending = h :: rest → guardHolds s.record h.guard = true →
    ((∃ r, step s = .refused r) ↔
      19 ≤ h.func.toNat ∨
      (∃ j, h.a = .outOf j ∧ ∀ o, s.record[j]? ≠ some (some o)) ∨
      (∃ j, h.b = .outOf j ∧ ∀ o, s.record[j]? ≠ some (some o)))

/-- An operand written `-` is a definite value that nothing fixes: the step is still an evaluation of the named operation,
with the other operand as written, LESS and EQUAL compare with the free value, and the free value reaches neither `OUT`
nor `COUT` of an operation that ignores the port (log 17). For port B and for port A. -/
def Obligations.AnyOperandIsFreeButDefinite : Prop :=
  (∀ (s : State) (h : HostStep) (rest : List HostStep) (i : Instr) (x : Byte),
    s.pending = h :: rest → guardHolds s.record h.guard = true → decode h.func = some i →
    OperandHasValue s.record h.a x → h.b = .any → i.outIgnoresB = true →
    ∃ t, step s = .next t ∧ t.a = x ∧ t.b = Config.anyOperand s.draws ∧ t.func = h.func ∧
      t.draws = s.draws + 1 + drawCount i ∧
      (t.less = true ↔ t.a.toNat < t.b.toNat) ∧ (t.equal = true ↔ t.a = t.b) ∧
      ∀ z : Byte, t.out = flagResult i x z ∧ (i ≠ .rev → t.cout = carryResult i x z false)) ∧
  ∀ (s : State) (h : HostStep) (rest : List HostStep) (i : Instr) (y : Byte),
    s.pending = h :: rest → guardHolds s.record h.guard = true → decode h.func = some i →
    h.a = .any → OperandHasValue s.record h.b y → i.outIgnoresA = true →
    ∃ t, step s = .next t ∧ t.a = Config.anyOperand s.draws ∧ t.b = y ∧ t.func = h.func ∧
      t.draws = s.draws + 1 + drawCount i ∧
      (t.less = true ↔ t.a.toNat < t.b.toNat) ∧ (t.equal = true ↔ t.a = t.b) ∧
      ∀ z : Byte, t.out = flagResult i z y ∧ t.cout = carryResult i z y false

/-- A well-formed host sequence without guards runs to its end: one step for each of its steps, none refused, every
step recorded with the outputs of an evaluation. -/
def Obligations.StraightLineSequenceRunsToItsEnd : Prop :=
  ∀ (steps : List HostStep) (s : State), HostSequence.wf steps = true → StraightLine steps →
    ∃ t, Host.Core.run Sys2Proof.core steps.length (s.load steps) = .next t ∧ t.pending = [] ∧
      t.record.length = steps.length ∧ ∀ e ∈ t.record, ∃ o, e = some o ∧ Possible o

/-- A reserved opcode in a host sequence is refused from `FUNC` alone, before anything else: a step that is taken is
refused as `reservedOpcode` exactly if its opcode is 19 or more, whatever its operands. And the run is refused as a whole:
every run of a loaded sequence that reaches such a step without guards is refused, whatever stands after it; as
`reservedOpcode`, if the steps before it are well formed (60_exceptions.md sections 1 and 3; D10, D20, D22; logs 6,
14). -/
def Obligations.ReservedHostStepRefusesWholeRun : Prop :=
  (∀ (s : State) (h : HostStep) (rest : List HostStep), s.pending = h :: rest → guardHolds s.record h.guard = true →
    (step s = .refused .reservedOpcode ↔ 19 ≤ h.func.toNat)) ∧
  ∀ (before after : List HostStep) (h : HostStep) (s : State) (m : Nat),
    StraightLine (before ++ [h]) → 19 ≤ h.func.toNat →
    (∃ r, Host.Core.run Sys2Proof.core (before.length + 1 + m) (s.load (before ++ h :: after)) = .refused r) ∧
    (HostSequence.wf before = true →
      Host.Core.run Sys2Proof.core (before.length + 1 + m) (s.load (before ++ h :: after)) = .refused .reservedOpcode)
end

