-- ==== Sys2Proof/Laws/State.lean ====
section
/-! SUPPORT. What each update of the state does to each field. -/

namespace Sys2Proof.Machine

/-! `State.driveOut` -/

@[simp] theorem State.driveOut_func (s : State) (v : Byte) : (s.driveOut v).func = s.func := rfl
@[simp] theorem State.driveOut_a (s : State) (v : Byte) : (s.driveOut v).a = s.a := rfl
@[simp] theorem State.driveOut_b (s : State) (v : Byte) : (s.driveOut v).b = s.b := rfl
@[simp] theorem State.driveOut_out (s : State) (v : Byte) : (s.driveOut v).out = v := rfl
@[simp] theorem State.driveOut_less (s : State) (v : Byte) : (s.driveOut v).less = s.less := rfl
@[simp] theorem State.driveOut_equal (s : State) (v : Byte) : (s.driveOut v).equal = s.equal := rfl
@[simp] theorem State.driveOut_positive (s : State) (v : Byte) : (s.driveOut v).positive = s.positive := rfl
@[simp] theorem State.driveOut_cout (s : State) (v : Byte) : (s.driveOut v).cout = s.cout := rfl
@[simp] theorem State.driveOut_draws (s : State) (v : Byte) : (s.driveOut v).draws = s.draws := rfl
@[simp] theorem State.driveOut_pending (s : State) (v : Byte) : (s.driveOut v).pending = s.pending := rfl
@[simp] theorem State.driveOut_record (s : State) (v : Byte) : (s.driveOut v).record = s.record := rfl

/-! `State.driveFlags` -/

@[simp] theorem State.driveFlags_func (s : State) (r : Byte) (c : Bool) : (s.driveFlags r c).func = s.func := rfl
@[simp] theorem State.driveFlags_a (s : State) (r : Byte) (c : Bool) : (s.driveFlags r c).a = s.a := rfl
@[simp] theorem State.driveFlags_b (s : State) (r : Byte) (c : Bool) : (s.driveFlags r c).b = s.b := rfl
@[simp] theorem State.driveFlags_out (s : State) (r : Byte) (c : Bool) : (s.driveFlags r c).out = s.out := rfl
@[simp] theorem State.driveFlags_less (s : State) (r : Byte) (c : Bool) : (s.driveFlags r c).less = lessFlag s.a s.b := rfl
@[simp] theorem State.driveFlags_equal (s : State) (r : Byte) (c : Bool) : (s.driveFlags r c).equal = equalFlag s.a s.b := rfl
@[simp] theorem State.driveFlags_positive (s : State) (r : Byte) (c : Bool) : (s.driveFlags r c).positive = positiveFlag r := rfl
@[simp] theorem State.driveFlags_cout (s : State) (r : Byte) (c : Bool) : (s.driveFlags r c).cout = c := rfl
@[simp] theorem State.driveFlags_draws (s : State) (r : Byte) (c : Bool) : (s.driveFlags r c).draws = s.draws := rfl
@[simp] theorem State.driveFlags_pending (s : State) (r : Byte) (c : Bool) : (s.driveFlags r c).pending = s.pending := rfl
@[simp] theorem State.driveFlags_record (s : State) (r : Byte) (c : Bool) : (s.driveFlags r c).record = s.record := rfl

/-! `State.drawn` -/

@[simp] theorem State.drawn_func (s : State) : (s.drawn).func = s.func := rfl
@[simp] theorem State.drawn_a (s : State) : (s.drawn).a = s.a := rfl
@[simp] theorem State.drawn_b (s : State) : (s.drawn).b = s.b := rfl
@[simp] theorem State.drawn_out (s : State) : (s.drawn).out = s.out := rfl
@[simp] theorem State.drawn_less (s : State) : (s.drawn).less = s.less := rfl
@[simp] theorem State.drawn_equal (s : State) : (s.drawn).equal = s.equal := rfl
@[simp] theorem State.drawn_positive (s : State) : (s.drawn).positive = s.positive := rfl
@[simp] theorem State.drawn_cout (s : State) : (s.drawn).cout = s.cout := rfl
@[simp] theorem State.drawn_draws (s : State) : (s.drawn).draws = s.draws + 1 := rfl
@[simp] theorem State.drawn_pending (s : State) : (s.drawn).pending = s.pending := rfl
@[simp] theorem State.drawn_record (s : State) : (s.drawn).record = s.record := rfl

/-! `State.present` -/

@[simp] theorem State.present_func (s : State) (func : Opcode) (a b : Byte) : (s.present func a b).func = func := rfl
@[simp] theorem State.present_a (s : State) (func : Opcode) (a b : Byte) : (s.present func a b).a = a := rfl
@[simp] theorem State.present_b (s : State) (func : Opcode) (a b : Byte) : (s.present func a b).b = b := rfl
@[simp] theorem State.present_out (s : State) (func : Opcode) (a b : Byte) : (s.present func a b).out = s.out := rfl
@[simp] theorem State.present_less (s : State) (func : Opcode) (a b : Byte) : (s.present func a b).less = s.less := rfl
@[simp] theorem State.present_equal (s : State) (func : Opcode) (a b : Byte) : (s.present func a b).equal = s.equal := rfl
@[simp] theorem State.present_positive (s : State) (func : Opcode) (a b : Byte) : (s.present func a b).positive = s.positive := rfl
@[simp] theorem State.present_cout (s : State) (func : Opcode) (a b : Byte) : (s.present func a b).cout = s.cout := rfl
@[simp] theorem State.present_draws (s : State) (func : Opcode) (a b : Byte) : (s.present func a b).draws = s.draws := rfl
@[simp] theorem State.present_pending (s : State) (func : Opcode) (a b : Byte) : (s.present func a b).pending = s.pending := rfl
@[simp] theorem State.present_record (s : State) (func : Opcode) (a b : Byte) : (s.present func a b).record = s.record := rfl

/-! `State.log` -/

@[simp] theorem State.log_func (s : State) (entry : Option Outputs) : (s.log entry).func = s.func := rfl
@[simp] theorem State.log_a (s : State) (entry : Option Outputs) : (s.log entry).a = s.a := rfl
@[simp] theorem State.log_b (s : State) (entry : Option Outputs) : (s.log entry).b = s.b := rfl
@[simp] theorem State.log_out (s : State) (entry : Option Outputs) : (s.log entry).out = s.out := rfl
@[simp] theorem State.log_less (s : State) (entry : Option Outputs) : (s.log entry).less = s.less := rfl
@[simp] theorem State.log_equal (s : State) (entry : Option Outputs) : (s.log entry).equal = s.equal := rfl
@[simp] theorem State.log_positive (s : State) (entry : Option Outputs) : (s.log entry).positive = s.positive := rfl
@[simp] theorem State.log_cout (s : State) (entry : Option Outputs) : (s.log entry).cout = s.cout := rfl
@[simp] theorem State.log_draws (s : State) (entry : Option Outputs) : (s.log entry).draws = s.draws := rfl
@[simp] theorem State.log_pending (s : State) (entry : Option Outputs) : (s.log entry).pending = s.pending := rfl
@[simp] theorem State.log_record (s : State) (entry : Option Outputs) : (s.log entry).record = s.record ++ [entry] := rfl

/-! `State.setPending` -/

@[simp] theorem State.setPending_func (s : State) (rest : List HostStep) : (s.setPending rest).func = s.func := rfl
@[simp] theorem State.setPending_a (s : State) (rest : List HostStep) : (s.setPending rest).a = s.a := rfl
@[simp] theorem State.setPending_b (s : State) (rest : List HostStep) : (s.setPending rest).b = s.b := rfl
@[simp] theorem State.setPending_out (s : State) (rest : List HostStep) : (s.setPending rest).out = s.out := rfl
@[simp] theorem State.setPending_less (s : State) (rest : List HostStep) : (s.setPending rest).less = s.less := rfl
@[simp] theorem State.setPending_equal (s : State) (rest : List HostStep) : (s.setPending rest).equal = s.equal := rfl
@[simp] theorem State.setPending_positive (s : State) (rest : List HostStep) : (s.setPending rest).positive = s.positive := rfl
@[simp] theorem State.setPending_cout (s : State) (rest : List HostStep) : (s.setPending rest).cout = s.cout := rfl
@[simp] theorem State.setPending_draws (s : State) (rest : List HostStep) : (s.setPending rest).draws = s.draws := rfl
@[simp] theorem State.setPending_pending (s : State) (rest : List HostStep) : (s.setPending rest).pending = rest := rfl
@[simp] theorem State.setPending_record (s : State) (rest : List HostStep) : (s.setPending rest).record = s.record := rfl

/-! `State.load` -/

@[simp] theorem State.load_func (s : State) (steps : List HostStep) : (s.load steps).func = s.func := rfl
@[simp] theorem State.load_a (s : State) (steps : List HostStep) : (s.load steps).a = s.a := rfl
@[simp] theorem State.load_b (s : State) (steps : List HostStep) : (s.load steps).b = s.b := rfl
@[simp] theorem State.load_out (s : State) (steps : List HostStep) : (s.load steps).out = s.out := rfl
@[simp] theorem State.load_less (s : State) (steps : List HostStep) : (s.load steps).less = s.less := rfl
@[simp] theorem State.load_equal (s : State) (steps : List HostStep) : (s.load steps).equal = s.equal := rfl
@[simp] theorem State.load_positive (s : State) (steps : List HostStep) : (s.load steps).positive = s.positive := rfl
@[simp] theorem State.load_cout (s : State) (steps : List HostStep) : (s.load steps).cout = s.cout := rfl
@[simp] theorem State.load_draws (s : State) (steps : List HostStep) : (s.load steps).draws = s.draws := rfl
@[simp] theorem State.load_pending (s : State) (steps : List HostStep) : (s.load steps).pending = steps := rfl
@[simp] theorem State.load_record (s : State) (steps : List HostStep) : (s.load steps).record = [] := rfl

/-! `State.showing` -/

@[simp] theorem State.showing_func (s : State) (o : Outputs) : (s.showing o).func = s.func := rfl
@[simp] theorem State.showing_a (s : State) (o : Outputs) : (s.showing o).a = s.a := rfl
@[simp] theorem State.showing_b (s : State) (o : Outputs) : (s.showing o).b = s.b := rfl
@[simp] theorem State.showing_out (s : State) (o : Outputs) : (s.showing o).out = o.out := rfl
@[simp] theorem State.showing_less (s : State) (o : Outputs) : (s.showing o).less = o.less := rfl
@[simp] theorem State.showing_equal (s : State) (o : Outputs) : (s.showing o).equal = o.equal := rfl
@[simp] theorem State.showing_positive (s : State) (o : Outputs) : (s.showing o).positive = o.positive := rfl
@[simp] theorem State.showing_cout (s : State) (o : Outputs) : (s.showing o).cout = o.cout := rfl
@[simp] theorem State.showing_draws (s : State) (o : Outputs) : (s.showing o).draws = s.draws := rfl
@[simp] theorem State.showing_pending (s : State) (o : Outputs) : (s.showing o).pending = s.pending := rfl
@[simp] theorem State.showing_record (s : State) (o : Outputs) : (s.showing o).record = s.record := rfl

/-! `State.finish` -/

@[simp] theorem State.finish_func (s : State) (r : Byte) (c : Bool) : (s.finish r c).func = s.func := rfl
@[simp] theorem State.finish_a (s : State) (r : Byte) (c : Bool) : (s.finish r c).a = s.a := rfl
@[simp] theorem State.finish_b (s : State) (r : Byte) (c : Bool) : (s.finish r c).b = s.b := rfl
@[simp] theorem State.finish_out (s : State) (r : Byte) (c : Bool) : (s.finish r c).out = r := rfl
@[simp] theorem State.finish_less (s : State) (r : Byte) (c : Bool) : (s.finish r c).less = lessFlag s.a s.b := rfl
@[simp] theorem State.finish_equal (s : State) (r : Byte) (c : Bool) : (s.finish r c).equal = equalFlag s.a s.b := rfl
@[simp] theorem State.finish_positive (s : State) (r : Byte) (c : Bool) : (s.finish r c).positive = positiveFlag r := rfl
@[simp] theorem State.finish_cout (s : State) (r : Byte) (c : Bool) : (s.finish r c).cout = c := rfl
@[simp] theorem State.finish_draws (s : State) (r : Byte) (c : Bool) : (s.finish r c).draws = s.draws := rfl
@[simp] theorem State.finish_pending (s : State) (r : Byte) (c : Bool) : (s.finish r c).pending = s.pending := rfl
@[simp] theorem State.finish_record (s : State) (r : Byte) (c : Bool) : (s.finish r c).record = s.record := rfl

/-! `State.shows` -/

@[simp] theorem State.shows_func (s : State) (out r : Byte) (c : Bool) : (s.shows out r c).func = s.func := rfl
@[simp] theorem State.shows_a (s : State) (out r : Byte) (c : Bool) : (s.shows out r c).a = s.a := rfl
@[simp] theorem State.shows_b (s : State) (out r : Byte) (c : Bool) : (s.shows out r c).b = s.b := rfl
@[simp] theorem State.shows_out (s : State) (out r : Byte) (c : Bool) : (s.shows out r c).out = out := rfl
@[simp] theorem State.shows_less (s : State) (out r : Byte) (c : Bool) : (s.shows out r c).less = decide (s.a.toNat < s.b.toNat) := rfl
@[simp] theorem State.shows_equal (s : State) (out r : Byte) (c : Bool) : (s.shows out r c).equal = decide (s.a.toNat = s.b.toNat) := rfl
@[simp] theorem State.shows_positive (s : State) (out r : Byte) (c : Bool) : (s.shows out r c).positive = decide (0 < r.toInt) := rfl
@[simp] theorem State.shows_cout (s : State) (out r : Byte) (c : Bool) : (s.shows out r c).cout = c := rfl
@[simp] theorem State.shows_draws (s : State) (out r : Byte) (c : Bool) : (s.shows out r c).draws = s.draws := rfl
@[simp] theorem State.shows_pending (s : State) (out r : Byte) (c : Bool) : (s.shows out r c).pending = s.pending := rfl
@[simp] theorem State.shows_record (s : State) (out r : Byte) (c : Bool) : (s.shows out r c).record = s.record := rfl

/-! `State.outputs` -/

@[simp] theorem State.showing_outputs (s : State) (o : Outputs) : (s.showing o).outputs = o := rfl
@[simp] theorem State.log_outputs (s : State) (entry : Option Outputs) : (s.log entry).outputs = s.outputs := rfl
@[simp] theorem State.drawn_outputs (s : State) : s.drawn.outputs = s.outputs := rfl

/-- The only fields an equation with `showing` leaves to compare are the five outputs. -/
theorem State.driveOut_driveFlags_eq_showing (s : State) (v r : Byte) (c : Bool) :
    (s.driveOut v).driveFlags r c =
      s.showing ⟨v, lessFlag s.a s.b, equalFlag s.a s.b, positiveFlag r, c⟩ := rfl

end Sys2Proof.Machine
end

