-- ==== Sys2Proof/Laws/Ops.lean ====
section
/-! SUPPORT. What the shared operations compute: one lemma for each, which proofs cite instead of unfolding it. -/

namespace Sys2Proof.Machine

/-! ## Vectors built bit by bit -/

@[simp] theorem getLsbD_ofBits (n : Nat) (f : Nat → Bool) (k : Nat) :
    (ofBits n f).getLsbD k = (decide (k < n) && f k) := by
  induction n with
  | zero => simp [ofBits]
  | succ n ih =>
    simp only [ofBits, BitVec.getLsbD_cons, ih]
    by_cases h : k = n
    · simp [h]
    · simp only [h, if_false]
      congr 1
      simp only [decide_eq_decide]
      omega

/-- Two bytes are equal if their eight bits are. -/
theorem Byte.ext {v w : Byte} (h : ∀ k, k < 8 → v.getLsbD k = w.getLsbD k) : v = w :=
  BitVec.eq_of_getLsbD_eq h

theorem getLsbD_rev8 (v : Byte) (k : Nat) (hk : k < 8) : (rev8 v).getLsbD k = v.getLsbD (7 - k) := by
  rw [rev8, getLsbD_ofBits, decide_eq_true hk, Bool.true_and]

theorem getLsbD_bitwise (f : Bool → Bool → Bool) (a b : Byte) (k : Nat) (hk : k < 8) :
    (bitwise f a b).getLsbD k = f (a.getLsbD k) (b.getLsbD k) := by
  rw [bitwise, getLsbD_ofBits, decide_eq_true hk, Bool.true_and]

/-! ## The adder -/

theorem adder_toNat (x y : Byte) (c0 : Bool) : (adder x y c0).toNat = x.toNat + y.toNat + c0.toNat := by
  have hx := x.isLt
  have hy := y.isLt
  have hc : c0.toNat ≤ 1 := c0.toNat_le
  simp only [adder, BitVec.toNat_add, BitVec.toNat_setWidth, BitVec.toNat_ofBool]
  omega

theorem sumOf_adder_toNat (x y : Byte) (c0 : Bool) :
    (sumOf (adder x y c0)).toNat = (x.toNat + y.toNat + c0.toNat) % 256 := by
  simp [sumOf, adder_toNat]

theorem carryOf_adder (x y : Byte) (c0 : Bool) :
    carryOf (adder x y c0) = decide (256 ≤ x.toNat + y.toNat + c0.toNat) := by
  have hx := x.isLt
  have hy := y.isLt
  have hc : c0.toNat ≤ 1 := c0.toNat_le
  simp only [carryOf, BitVec.getLsbD, Nat.testBit_eq_decide_div_mod_eq, adder_toNat, decide_eq_decide]
  omega

theorem not_toNat (y : Byte) : (~~~y).toNat = 255 - y.toNat := by
  simp [BitVec.toNat_not]

theorem sumOf_subtractor_toNat (x y : Byte) :
    (sumOf (subtractor x y)).toNat = (256 + x.toNat - y.toNat) % 256 := by
  have hy := y.isLt
  simp only [subtractor, sumOf_adder_toNat, not_toNat, Bool.toNat_true]
  congr 1
  omega

theorem carryOf_subtractor (x y : Byte) : carryOf (subtractor x y) = decide (y.toNat ≤ x.toNat) := by
  have hy := y.isLt
  simp only [subtractor, carryOf_adder, not_toNat, Bool.toNat_true, decide_eq_decide]
  omega

/-! ## The shifts -/

theorem getLsbD_shiftLeft (v : Byte) (k : Nat) (hk : k < 8) :
    (shiftLeft v).getLsbD k = (decide (1 ≤ k) && v.getLsbD (k - 1)) := by
  rw [shiftLeft, BitVec.getLsbD_append, BitVec.getLsbD_extractLsb']
  by_cases h : k < 1
  · have h1 : ¬1 ≤ k := by omega
    simp only [h, h1, if_true, decide_false, Bool.false_and, BitVec.getLsbD_zero]
  · have h1 : 1 ≤ k := by omega
    have h2 : k - 1 < 7 := by omega
    simp only [h, h1, h2, if_false, decide_true, Bool.true_and, Nat.zero_add]

theorem getLsbD_shiftRight (v : Byte) (k : Nat) (hk : k < 8) :
    (shiftRight v).getLsbD k = (decide (k ≤ 6) && v.getLsbD (k + 1)) := by
  rw [shiftRight, BitVec.getLsbD_append, BitVec.getLsbD_extractLsb']
  by_cases h : k < 7
  · have h1 : k ≤ 6 := by omega
    simp only [h, h1, if_true, decide_true, Bool.true_and, Nat.add_comm 1 k]
  · have h1 : ¬k ≤ 6 := by omega
    simp only [h, h1, if_false, decide_false, Bool.false_and, BitVec.getLsbD_zero]

theorem getLsbD_shiftRightArith (v : Byte) (k : Nat) (hk : k < 8) :
    (shiftRightArith v).getLsbD k = if k ≤ 6 then v.getLsbD (k + 1) else v.getLsbD 7 := by
  rw [shiftRightArith, BitVec.getLsbD_append, BitVec.getLsbD_extractLsb', BitVec.getLsbD_extractLsb']
  by_cases h : k < 7
  · have h1 : k ≤ 6 := by omega
    simp only [h, h1, decide_true, Bool.true_and, if_true, Nat.add_comm 1 k]
  · have h1 : ¬k ≤ 6 := by omega
    have h2 : k - 7 = 0 := by omega
    simp only [h, h1, h2, decide_false, if_false, Nat.add_zero, Nat.zero_lt_one, decide_true, Bool.true_and]

/-! ## The flags -/

theorem lessFlag_eq (a b : Byte) : lessFlag a b = decide (a.toNat < b.toNat) := rfl

theorem equalFlag_eq (a b : Byte) : equalFlag a b = decide (a.toNat = b.toNat) := by
  rw [equalFlag, Bool.eq_iff_iff, beq_iff_eq, decide_eq_true_eq]
  exact BitVec.toNat_inj.symm

theorem positiveFlag_eq (r : Byte) : positiveFlag r = decide (0 < r.toInt) := by
  revert r
  decide

/-- Every meaning ends in `shows`: the flags of `Flags(R, c)` in their numeric reading. -/
theorem driveOut_driveFlags_eq_shows (s : State) (v r : Byte) (c : Bool) :
    (s.driveOut v).driveFlags r c = s.shows v r c := by
  rw [State.driveOut_driveFlags_eq_showing, State.shows, lessFlag_eq, equalFlag_eq, positiveFlag_eq]

theorem finish_eq_shows (s : State) (r : Byte) (c : Bool) : s.finish r c = s.shows r r c :=
  driveOut_driveFlags_eq_shows s r r c

end Sys2Proof.Machine
end

