-- ==== Sys2Proof/Laws/PerInstr.lean ====
section
/-! SUPPORT. Statements made per instruction, about the instruction as syntax: one lemma for each constructor. -/

namespace Sys2Proof.Laws.Encoding

/-- The opcode of `i` is an implemented one, it decodes to `i` and to nothing else, and the signals of the decode table
have the unit that the operation's type needs. -/
def Statement (i : Instr) : Prop :=
  (encode i).toNat ≤ 18 ∧ decode (encode i) = some i ∧ (∀ w, encode i = w → decode w = some i) ∧
  ((Machine.controlRow i).muxSel = true ↔ i.type = .logic)

theorem add : Statement .add := ⟨by decide, rfl, fun _ h => h ▸ rfl, by decide⟩

theorem sub : Statement .sub := ⟨by decide, rfl, fun _ h => h ▸ rfl, by decide⟩

theorem inc : Statement .inc := ⟨by decide, rfl, fun _ h => h ▸ rfl, by decide⟩

theorem dec : Statement .dec := ⟨by decide, rfl, fun _ h => h ▸ rfl, by decide⟩

theorem lsl : Statement .lsl := ⟨by decide, rfl, fun _ h => h ▸ rfl, by decide⟩

theorem lsr : Statement .lsr := ⟨by decide, rfl, fun _ h => h ▸ rfl, by decide⟩

theorem asr : Statement .asr := ⟨by decide, rfl, fun _ h => h ▸ rfl, by decide⟩

theorem rev : Statement .rev := ⟨by decide, rfl, fun _ h => h ▸ rfl, by decide⟩

theorem nand : Statement .nand := ⟨by decide, rfl, fun _ h => h ▸ rfl, by decide⟩

theorem nor : Statement .nor := ⟨by decide, rfl, fun _ h => h ▸ rfl, by decide⟩

theorem xor : Statement .xor := ⟨by decide, rfl, fun _ h => h ▸ rfl, by decide⟩

theorem passa : Statement .passa := ⟨by decide, rfl, fun _ h => h ▸ rfl, by decide⟩

theorem passb : Statement .passb := ⟨by decide, rfl, fun _ h => h ▸ rfl, by decide⟩

theorem and : Statement .and := ⟨by decide, rfl, fun _ h => h ▸ rfl, by decide⟩

theorem or : Statement .or := ⟨by decide, rfl, fun _ h => h ▸ rfl, by decide⟩

theorem xnor : Statement .xnor := ⟨by decide, rfl, fun _ h => h ▸ rfl, by decide⟩

theorem cmp : Statement .cmp := ⟨by decide, rfl, fun _ h => h ▸ rfl, by decide⟩

theorem nota : Statement .nota := ⟨by decide, rfl, fun _ h => h ▸ rfl, by decide⟩

theorem notb : Statement .notb := ⟨by decide, rfl, fun _ h => h ▸ rfl, by decide⟩

end Sys2Proof.Laws.Encoding
end

