-- ==== Sys2Proof/Laws/Step.lean ====
section
/-! SUPPORT. What an evaluation, a host step and a step can do, said once. -/

namespace Sys2Proof.Machine

/-! ## Decoding -/

theorem decode_eq_none_of_reserved : ∀ func : Opcode, 19 ≤ func.toNat → decode func = none := by
  decide

theorem decode_isSome_of_implemented : ∀ func : Opcode, func.toNat ≤ 18 → (decode func).isSome = true := by
  decide

/-! ## An evaluation -/

theorem evaluate_of_decode {s : State} {i : Instr} (h : decode s.func = some i) : evaluate s = exec i s := by
  simp only [evaluate, h]

theorem evaluate_of_reserved {s : State} (h : decode s.func = none) : evaluate s = .refused .reservedOpcode := by
  simp only [evaluate, h]

/-- If an evaluation answers a next state, an operation was decoded and it answered that state. -/
theorem evaluate_next {s t : State} (h : evaluate s = .next t) : ∃ i, decode s.func = some i ∧ exec i s = .next t := by
  unfold evaluate at h
  split at h
  · next i hi => exact ⟨i, hi, h⟩
  · cases h

theorem recordEvaluation_next {x : Host.Outcome State Fault Refusal} {t : State} (h : recordEvaluation x = .next t) :
    ∃ u, x = .next u ∧ t = u.log (some u.outputs) := by
  unfold recordEvaluation at h
  split at h
  · next u => exact ⟨u, rfl, (Host.Outcome.next.inj h).symm⟩
  · cases h
  · cases h

/-! ## A host step -/

/-- Reading an operand changes nothing but the count of draws. -/
theorem readHostOperand_some {s s' : State} {op : HostOperand} {v : Byte} (h : s.readHostOperand op = some (v, s')) :
    ∃ n, s' = { s with draws := n } := by
  cases op with
  | lit w => cases h; exact ⟨s.draws, rfl⟩
  | outOf j =>
    simp only [State.readHostOperand] at h
    split at h
    · cases h; exact ⟨s.draws, rfl⟩
    · cases h
    · cases h
  | any => cases h; exact ⟨s.draws + 1, rfl⟩

theorem readHostOperand_of_value {s : State} {op : HostOperand} {v : Byte} (h : OperandHasValue s.record op v) :
    s.readHostOperand op = some (v, s) := by
  obtain rfl | ⟨j, o, rfl, hj, rfl⟩ := h
  · rfl
  · simp only [State.readHostOperand, hj]

/-- A taken host step with a reserved opcode is refused, whatever its operands (rule R77). -/
theorem takeHostStep_of_reserved {h : HostStep} (rest : List HostStep) (s : State) (hd : decode h.func = none) :
    takeHostStep h rest s = .refused .reservedOpcode := by
  simp only [takeHostStep, hd]

theorem takeHostStep_of_decode {h : HostStep} {i : Instr} (rest : List HostStep) (s : State)
    (hd : decode h.func = some i) : takeHostStep h rest s = presentHostStep h rest s := by
  simp only [takeHostStep, hd]

/-- A host step whose operands have been read evaluates its opcode on them and records the outputs. -/
theorem presentHostStep_of_operands {h : HostStep} {s s1 s2 : State} {x y : Byte} (rest : List HostStep)
    (ha : s.readHostOperand h.a = some (x, s1)) (hb : s1.readHostOperand h.b = some (y, s2)) :
    presentHostStep h rest s = recordEvaluation (evaluate ((s2.setPending rest).present h.func x y)) := by
  simp only [presentHostStep, ha, hb]

/-- If a taken host step answers a next state, it evaluated its opcode on two definite operands and recorded the
outputs; nothing else changed on the way but the count of draws. -/
theorem takeHostStep_next {h : HostStep} {rest : List HostStep} {s t : State} (ht : takeHostStep h rest s = .next t) :
    ∃ (x y : Byte) (n : Nat) (u : State),
      evaluate { s with func := h.func, a := x, b := y, pending := rest, draws := n } = .next u ∧
      t = u.log (some u.outputs) := by
  cases hd : decode h.func with
  | none => rw [takeHostStep_of_reserved rest s hd] at ht; cases ht
  | some i =>
  rw [takeHostStep_of_decode rest s hd, presentHostStep] at ht
  split at ht
  · cases ht
  · next x s1 h1 =>
    split at ht
    · cases ht
    · next y s2 h2 =>
      obtain ⟨n, rfl⟩ := readHostOperand_some h1
      obtain ⟨m, rfl⟩ := readHostOperand_some h2
      obtain ⟨u, hu, rfl⟩ := recordEvaluation_next ht
      exact ⟨x, y, m, u, hu, rfl⟩

/-! ## A step -/

theorem step_of_no_pending {s : State} (h : s.pending = []) : step s = evaluate s := by
  simp only [step, machineStep, h]

theorem step_of_pending {s : State} {h : HostStep} {rest : List HostStep} (hp : s.pending = h :: rest) :
    step s = hostTurn h rest s := by
  simp only [step, machineStep, hp]

theorem hostTurn_taken {h : HostStep} {s : State} (rest : List HostStep) (hg : guardHolds s.record h.guard = true) :
    hostTurn h rest s = takeHostStep h rest s := by
  simp only [hostTurn, hg, if_true]

theorem hostTurn_left_out {h : HostStep} {s : State} (rest : List HostStep)
    (hg : guardHolds s.record h.guard = false) : hostTurn h rest s = .next ((s.setPending rest).log none) := by
  simp only [hostTurn, hg, Bool.false_eq_true, if_false]

end Sys2Proof.Machine
end

