-- ==== Sys2Proof/Tests/Slice0.lean ====
section
/-! SUPPORT. Tests, their expected values taken from the spec: S<n> are the source's worked examples and V<n> the derived
vectors of 95_test_vectors.md, P<n> its host sequences. Then a witness for the hypotheses of each statement. -/

namespace Sys2Proof.Tests

open Sys2Proof Sys2Proof.Machine

/-- A small state: the two ports, and otherwise as at reset. -/
def ports (a b : Byte) : State := { State.reset with a := a, b := b }

/-- What one evaluation of the ports shows. -/
def shown (i : Instr) (a b : Byte) : Option Outputs :=
  match exec i (ports a b) with
  | .next t => some t.outputs
  | .fault _ => none
  | .refused _ => none

/-- The flags of an evaluation that do not read a free value, in the order LESS, EQUAL, POSITIVE. -/
def flags3 (i : Instr) (a b : Byte) : Option (Bool × Bool × Bool) :=
  (shown i a b).map fun o => (o.less, o.equal, o.positive)

/-- What the machine has recorded after `n` steps of a host sequence from reset. -/
def recordAfter (n : Nat) (steps : List HostStep) : Option (List (Option Outputs)) :=
  match Host.Core.run Sys2Proof.core n (State.reset.load steps) with
  | .next t => some t.record
  | .fault _ => none
  | .refused _ => none

/-! ## Decoding: words written out from the encodings of rule R33 -/

theorem test_decode_arithmetic : [0b00000, 0b00001, 0b00010, 0b00011].map (decodeTableWord 5) =
    [some .add, some .sub, some .inc, some .dec] := by decide

theorem test_decode_shift_rev : [0b00100, 0b00101, 0b00110, 0b00111].map (decodeTableWord 5) =
    [some .lsl, some .lsr, some .asr, some .rev] := by decide

theorem test_decode_logic : [0b01000, 0b01001, 0b01010, 0b01011, 0b01100, 0b01101, 0b01110, 0b01111].map
    (decodeTableWord 8) =
    [some .nand, some .nor, some .xor, some .passa, some .passb, some .and, some .or, some .xnor] := by decide

theorem test_decode_special : [0b10000, 0b10001, 0b10010].map (decodeTableWord 8) =
    [some .cmp, some .nota, some .notb] := by decide

/-- V5: opcodes 19 to 31 decode to nothing, and FUNC has no sixth bit. -/
theorem test_decode_reserved : [19, 20, 21, 22, 23, 24, 25, 26, 27, 28, 29, 30, 31, 32, 0x80].map (decodeTableWord 8) =
    List.replicate 15 none := by decide

/-- Conflict C3: 19 to 23 are in the `10` group, and reserved. -/
theorem test_category : category 0b00111#5 = .arithmeticAndShift ∧ category 0b01100#5 = .logic ∧
    category 0b10011#5 = .special ∧ category 0b11000#5 = .reserved := by decide

/-- Rule R40: how LOGIC_SEL and INV_OUT follow from the opcode's low bits. -/
theorem test_logic_sel : (controlRow .passb).logicSel = some ((encode .passb).extractLsb' 0 3) ∧
    (controlRow .xnor).logicSel = some ((encode .xnor).extractLsb' 0 3 - 5) ∧
    (controlRow .nota).logicSel = some ((encode .nota).extractLsb' 0 3 + 2) := by decide

theorem test_logic_unit_unused_codes : [0b101#3, 0b110#3, 0b111#3].map (logicUnit · 0x12 0x34) = [none, none, none] := by
  decide

/-! ## WellFormed smoke tests: an ill-formed term for each check -/

/-- A literal operand on both ports and an earlier guard are fine. -/
theorem test_wf_accepts : HostSequence.wf [⟨encode .add, .lit 3, .lit 4, none⟩,
    ⟨encode .inc, .outOf 0, .any, some ⟨0, .cout, true⟩⟩] = true := by decide

theorem test_wf_refuses_reserved_opcode : HostStep.wf 0 ⟨0b10011#5, .lit 3, .lit 4, none⟩ = false := by decide

theorem test_wf_refuses_own_output : HostStep.wf 1 ⟨encode .add, .outOf 1, .lit 4, none⟩ = false := by decide

theorem test_wf_refuses_later_output : HostStep.wf 1 ⟨encode .add, .lit 4, .outOf 2, none⟩ = false := by decide

/-- Rule R43: `-` only on a port that OUT ignores, which CMP does for neither. -/
theorem test_wf_refuses_any_on_used_port : HostStep.wf 0 ⟨encode .add, .lit 4, .any, none⟩ = false ∧
    HostStep.wf 0 ⟨encode .notb, .any, .any, none⟩ = false ∧ HostStep.wf 0 ⟨encode .cmp, .lit 4, .any, none⟩ = false := by
  decide

theorem test_wf_refuses_guard_on_itself : HostStep.wf 2 ⟨encode .add, .lit 1, .lit 2, some ⟨2, .less, true⟩⟩ = false := by
  decide

theorem test_wf_refuses_ill_formed_tail : HostSequence.wf [⟨encode .add, .lit 3, .lit 4, none⟩,
    ⟨encode .add, .outOf 1, .lit 4, none⟩] = false := by decide

/-! ## One evaluation -/

/-- S1 row 2. -/
theorem test_add_wraps : shown .add 0xFF 0x01 = some ⟨0x00, false, false, false, true⟩ := by decide

/-- S1 row 3, POSITIVE as conflict C1 settles it. -/
theorem test_add_into_sign : shown .add 0x7F 0x01 = some ⟨0x80, false, false, false, false⟩ := by decide

/-- S2 row 2. -/
theorem test_sub_borrows : shown .sub 0x00 0x01 = some ⟨0xFF, true, false, false, false⟩ := by decide

/-- S2 row 1. -/
theorem test_sub : shown .sub 0x64 0x23 = some ⟨0x41, false, false, true, true⟩ := by decide

/-- V1. -/
theorem test_inc_wraps : shown .inc 0xFF 0xFF = some ⟨0x00, false, true, false, true⟩ := by decide

/-- V1: LESS compares the ports, not the constant. -/
theorem test_inc_compares_ports : shown .inc 0x42 0x99 = some ⟨0x43, true, false, true, false⟩ := by decide

/-- V1. -/
theorem test_dec_wraps : shown .dec 0x00 0x00 = some ⟨0xFF, false, true, false, false⟩ := by decide

/-- V1. -/
theorem test_dec : shown .dec 0x80 0x00 = some ⟨0x7F, false, false, true, true⟩ := by decide

/-- S9, its flags from V3. -/
theorem test_lsl : shown .lsl 0xB1 0x00 = some ⟨0x62, false, false, true, true⟩ := by decide

/-- S10, its flags from V3. -/
theorem test_lsr : shown .lsr 0xB1 0x00 = some ⟨0x58, false, false, true, true⟩ := by decide

/-- S11, its flags from V3. -/
theorem test_asr : shown .asr 0xB1 0x00 = some ⟨0xD8, false, false, false, true⟩ := by decide

/-- V3. -/
theorem test_asr_positive : shown .asr 0x7F 0x80 = some ⟨0x3F, true, false, true, true⟩ := by decide

/-- S15: OUT, and the flags that do not read the free bit. -/
theorem test_rev : (shown .rev 0xB1 0x00).map (·.out) = some 0x8D ∧ flags3 .rev 0xB1 0x00 = some (false, false, false) := by
  decide

/-- V4: a single bit ends up at the other end. -/
theorem test_rev_end_bit : (shown .rev 0x80 0x00).map (·.out) = some 0x01 ∧
    flags3 .rev 0x80 0x00 = some (false, false, true) := by decide

/-- V2, the same operands for all six. -/
theorem test_nand : shown .nand 0xF0 0x3C = some ⟨0xCF, false, false, false, false⟩ := by decide

theorem test_nor : shown .nor 0xF0 0x3C = some ⟨0x03, false, false, true, false⟩ := by decide

theorem test_xor : shown .xor 0xF0 0x3C = some ⟨0xCC, false, false, false, false⟩ := by decide

theorem test_and : shown .and 0xF0 0x3C = some ⟨0x30, false, false, true, false⟩ := by decide

theorem test_or : shown .or 0xF0 0x3C = some ⟨0xFC, false, false, false, false⟩ := by decide

theorem test_xnor : shown .xnor 0xF0 0x3C = some ⟨0x33, false, false, true, false⟩ := by decide

/-- S13 "Less than": the flags; OUT is free. -/
theorem test_cmp_less : flags3 .cmp 0x10 0x20 = some (true, false, false) ∧
    (shown .cmp 0x10 0x20).map (·.cout) = some false := by decide

/-- V4: POSITIVE is the sign of the 8-bit difference. -/
theorem test_cmp_wrapped_sign : flags3 .cmp 0x00 0xFF = some (true, false, true) ∧
    flags3 .cmp 0xFF 0x01 = some (false, false, false) := by decide

/-- V4. -/
theorem test_passa : shown .passa 0x7F 0x80 = some ⟨0x7F, true, false, true, false⟩ := by decide

theorem test_passb : shown .passb 0x99 0x42 = some ⟨0x42, false, false, true, false⟩ := by decide

/-- S16, its flags from V4. -/
theorem test_nota : shown .nota 0xAA 0x55 = some ⟨0x55, false, false, true, false⟩ := by decide

theorem test_notb : shown .notb 0x55 0xAA = some ⟨0x55, true, false, true, false⟩ := by decide

/-- From reset, a word driven on FUNC is the first instruction to run. -/
theorem test_first_word_runs :
    step (State.reset.withFetchWord 8 0b01111) =
      .next { State.reset with func := 0b01111#5, out := 0xFF, equal := true } := by rfl

theorem test_reserved_word_refused : step (State.reset.withFetchWord 8 0b10011) = .refused .reservedOpcode := by rfl

/-! ## Host steps -/

/-- P3, its first start: CMP, then the guarded PASSB; the `else` step is left out. -/
def maxSequence (a b : Byte) : List HostStep :=
  [ ⟨encode .cmp, .lit a, .lit b, none⟩,
    ⟨encode .passb, .lit a, .lit b, some ⟨0, .less, true⟩⟩,
    ⟨encode .passa, .lit a, .lit b, some ⟨0, .less, false⟩⟩ ]

theorem test_host_guarded_choice : (recordAfter 3 (maxSequence 0x10 0x20)).map (·.drop 1) =
    some [some ⟨0x20, true, false, true, false⟩, none] := by decide

theorem test_host_else_branch : (recordAfter 3 (maxSequence 0x20 0x10)).map (·.drop 1) =
    some [none, some ⟨0x20, false, false, true, false⟩] := by decide

/-- P5 from n = 1, its loop guard on a step that was left out: still left out (log 15). -/
theorem test_host_guard_on_left_out_step :
    recordAfter 3 [⟨encode .dec, .lit 1, .lit 0, none⟩, ⟨encode .dec, .outOf 0, .lit 0, some ⟨0, .positive, true⟩⟩,
      ⟨encode .dec, .outOf 1, .lit 0, some ⟨1, .positive, true⟩⟩] =
    some [some ⟨0x00, false, false, false, true⟩, none, none] := by decide

/-- P7: the run is refused at the reserved opcode. -/
theorem test_host_reserved_refused :
    recordAfter 2 [⟨encode .add, .lit 3, .lit 4, none⟩, ⟨0b10011#5, .lit 3, .lit 4, none⟩] = none := by decide

/-- Rule R77: the refusal of a reserved opcode is decided before the operands are looked at. -/
theorem test_host_reserved_before_operands :
    step (State.reset.load [⟨0b10011#5, .outOf 5, .outOf 6, none⟩]) = .refused .reservedOpcode := by rfl

/-- An implemented opcode with an operand that has no value. -/
theorem test_host_undriven_operand :
    step (State.reset.load [⟨encode .add, .lit 1, .outOf 6, none⟩]) = .refused .undrivenOperand := by rfl

/-! ## Witnesses: for each statement with hypotheses, a state and operands that meet them together -/

theorem witness_encoded_word : 5 ≤ 5 ∧ decodeTableWord 5 0b10010 = some .notb ∧
    tableWord 5 0b10010 = (encode .notb).toNat := by decide

/-- The last implemented opcode and the first reserved one. -/
theorem witness_evaluation_refused :
    (State.reset.withFetchWord 5 18).pending = [] ∧ (State.reset.withFetchWord 5 18).func.toNat ≤ 18 ∧
    (State.reset.withFetchWord 5 19).pending = [] ∧ 19 ≤ (State.reset.withFetchWord 5 19).func.toNat ∧
    19 ≤ (State.reset.withFetchWord 5 31).func.toNat := by decide

theorem witness_step_runs_decoded : (ports 1 2).pending = [] ∧ decode (ports 1 2).func = some .add := by decide

/-- A state in the middle of a sequence: one step recorded, one still to come. -/
def midway (h : HostStep) : State :=
  { ports 3 4 with pending := [h], record := [some ⟨7, true, false, true, false⟩, none] }

def midwayStep : HostStep := ⟨encode .inc, .outOf 0, .lit 0, some ⟨0, .less, true⟩⟩

theorem witness_host_step_runs_decoded :
    (midway midwayStep).pending = midwayStep :: [] ∧ guardHolds (midway midwayStep).record midwayStep.guard = true ∧
    decode midwayStep.func = some .inc ∧ OperandHasValue (midway midwayStep).record midwayStep.a 7 ∧
    OperandHasValue (midway midwayStep).record midwayStep.b 0 :=
  ⟨rfl, rfl, rfl, .inr ⟨0, _, rfl, rfl, rfl⟩, .inl rfl⟩

/-- Each clause of `FlagsHaveCommonShape` and `FlagRelationsHold` has an operation. -/
theorem witness_flag_clauses : Instr.add ≠ .cmp ∧ Instr.cmp ∈ [Instr.sub, .cmp] ∧ Instr.xor ∈ [Instr.sub, .cmp, .xor] ∧
    Instr.xnor ∈ [Instr.sub, .cmp, .xor, .xnor] ∧ Instr.notb.type = .logic ∧
    (shown .add 0x2A 0x17).map (·.positive) = some true := by decide

theorem witness_frame : ∃ t u, exec .add (ports 1 2) = .next t ∧ exec .cmp (ports 1 2) = .next u ∧
    Instr.add ∉ [Instr.cmp, .rev] ∧ Instr.cmp ∈ [Instr.cmp, .rev] := ⟨_, _, rfl, rfl, by decide, by decide⟩

theorem witness_independent : ∃ s u t : State, s.pending = [] ∧ u.pending = [] ∧ s.func = u.func ∧ s.a = u.a ∧ s.b = u.b ∧
    s.draws = u.draws ∧ s.out ≠ u.out ∧ step s = .next t :=
  ⟨ports 1 2, { ports 1 2 with out := 9, less := true, record := [none] }, _, rfl, rfl, rfl, rfl, rfl, rfl, by decide, rfl⟩

theorem witness_ports : Instr.nota ∈ [Instr.inc, .dec, .lsl, .lsr, .asr, .rev, .passa, .nota] ∧
    Instr.notb ∈ [Instr.passb, .notb] ∧ Instr.add ∉ [Instr.passb, .notb, .cmp] ∧
    Instr.passb ∈ [Instr.add, .sub, .nand, .nor, .xor, .and, .or, .xnor, .passb, .notb] := by decide

/-- Signals that fit a row of each unit, don't-care cells at either value; the last used LOGIC_SEL code. -/
theorem witness_signals :
    Signals.fits ⟨true, true, true, 0b100#3⟩ (controlRow .notb) = true ∧
    Signals.fits ⟨false, true, true, 0b100#3⟩ (controlRow .notb) = true ∧
    Signals.fits ⟨true, false, false, 0b111#3⟩ (controlRow .dec) = true ∧
    Signals.fits ⟨true, false, false, 0b000#3⟩ (controlRow .cmp) = true ∧ Instr.notb ≠ .cmp ∧
    (0b100#3).toNat ≤ 4 ∧ (controlRow .dec).muxSel = false := by decide

/-- The bit clauses of the shift statements at the ends of their ranges, on the operand of S9 to S11. -/
theorem witness_shift_bits :
    (shiftLeft 0xB1).getLsbD 0 = false ∧ (shiftLeft 0xB1).getLsbD 1 = (0xB1#8).getLsbD (1 - 1) ∧
    (shiftLeft 0xB1).getLsbD 7 = (0xB1#8).getLsbD (7 - 1) ∧
    (shiftRight 0xB1).getLsbD 7 = false ∧ (shiftRight 0xB1).getLsbD 6 = (0xB1#8).getLsbD 7 ∧
    (shiftRight 0xB1).getLsbD 0 = (0xB1#8).getLsbD 1 ∧
    (shiftRightArith 0xB1).getLsbD 7 = true ∧ (shiftRightArith 0xB1).getLsbD 6 = (0xB1#8).getLsbD 7 ∧
    (shiftRightArith 0xB1).getLsbD 0 = (0xB1#8).getLsbD 1 := by decide

theorem witness_identities : (ports 0x00 0x05).a = 0x00#8 ∧ (ports 0x42 0x42).a = (ports 0x42 0x42).b := by decide

theorem witness_shared_operands : (ports 0xFF 0xFF).a = (ports 0xFF 0xFF).b ∧ (ports 0x00 0x01).b = 0x01#8 := by decide

/-- An evaluation has been made (P2, its first step) and recorded; the next one runs. -/
theorem witness_invariant : ∃ s t : State, Inv s ∧ s.record ≠ [] ∧ step s = .next t := by
  refine ⟨⟨encode .lsl, 0x0B, 0x00, 0x16, false, false, true, false, 0, [], [some ⟨0x16, false, false, true, false⟩]⟩, _,
    ⟨⟨.lsl, ⟨0, false⟩, rfl, by decide⟩, fun o ho => ⟨.lsl, 0x0B, 0x00, ⟨0, false⟩, ?_⟩⟩, by decide, rfl⟩
  obtain rfl : o = ⟨0x16, false, false, true, false⟩ := by simpa using ho
  decide

theorem witness_host_step_used : ∃ (s t : State) (h : HostStep), s.pending = h :: [] ∧ step s = .next t ∧
    guardHolds s.record h.guard = true := ⟨midway midwayStep, _, midwayStep, rfl, rfl, rfl⟩

def guardFails : HostStep := ⟨encode .inc, .outOf 0, .lit 0, some ⟨0, .equal, true⟩⟩

theorem witness_guard_leaves_out :
    (midway guardFails).pending = guardFails :: [] ∧ guardHolds (midway guardFails).record guardFails.guard = false := by
  decide

/-- A taken step that is refused for a reserved opcode, and one refused for each operand. -/
theorem witness_host_step_refused : ∀ h ∈ [(⟨0b11111#5, .lit 1, .lit 2, none⟩ : HostStep),
    ⟨encode .add, .outOf 1, .lit 2, none⟩, ⟨encode .add, .lit 1, .outOf 2, none⟩],
    (midway h).pending = h :: [] ∧ guardHolds (midway h).record h.guard = true := by decide

def anyStep : HostStep := ⟨encode .rev, .lit 0xB1, .any, none⟩

theorem witness_any_operand :
    (midway anyStep).pending = anyStep :: [] ∧ guardHolds (midway anyStep).record anyStep.guard = true ∧
    decode anyStep.func = some .rev ∧ OperandHasValue (midway anyStep).record anyStep.a 0xB1 ∧ anyStep.b = .any ∧
    Instr.rev.outIgnoresB = true :=
  ⟨rfl, rfl, rfl, .inl rfl, rfl, rfl⟩

def anyStepA : HostStep := ⟨encode .notb, .any, .outOf 0, some ⟨0, .cout, false⟩⟩

theorem witness_any_operand_a :
    (midway anyStepA).pending = anyStepA :: [] ∧ guardHolds (midway anyStepA).record anyStepA.guard = true ∧
    decode anyStepA.func = some .notb ∧ anyStepA.a = .any ∧ OperandHasValue (midway anyStepA).record anyStepA.b 7 ∧
    Instr.notb.outIgnoresA = true :=
  ⟨rfl, rfl, rfl, rfl, .inr ⟨0, _, rfl, rfl, rfl⟩, rfl⟩

/-- P2. -/
def timesFive : List HostStep :=
  [ ⟨encode .lsl, .lit 0x0B, .lit 0, none⟩, ⟨encode .lsl, .outOf 0, .any, none⟩,
    ⟨encode .add, .outOf 1, .lit 0x0B, none⟩ ]

theorem witness_straight_line : HostSequence.wf timesFive = true ∧ StraightLine timesFive := by
  refine ⟨by decide, ?_⟩
  unfold StraightLine
  decide

/-- The first and the last reserved opcode, taken, the second with an operand that has no value. -/
theorem witness_reserved_host_step : ∀ h ∈ [(⟨0b10011#5, .lit 3, .lit 4, none⟩ : HostStep),
    ⟨0b11111#5, .outOf 1, .lit 4, none⟩],
    (midway h).pending = h :: [] ∧ guardHolds (midway h).record h.guard = true ∧ 19 ≤ h.func.toNat := by decide

/-- P7: a well-formed step, then a reserved one, then a step that is not reached; and an empty start. -/
theorem witness_reserved_run : StraightLine ([⟨encode .add, .lit 3, .lit 4, none⟩] ++ [⟨0b10011#5, .lit 3, .lit 4, none⟩]) ∧
    19 ≤ (0b10011#5).toNat ∧ HostSequence.wf [⟨encode .add, .lit 3, .lit 4, none⟩] = true ∧ HostSequence.wf [] = true := by
  refine ⟨?_, by decide⟩
  unfold StraightLine
  decide

end Sys2Proof.Tests
end

/-! Proofs about the encoding: the Control Signal Decode Table. -/

namespace Sys2Proof.Proofs.Encoding

/-- Settles O4 (rule R38): each row is the value `controlRow` takes at its operation, in the table's groups (arithmetic,
shift and REV, plain logic, inverted logic, the rows after `XNOR`). -/
theorem controlSignalsAsTabulated : Obligations.ControlSignalsAsTabulated :=
  ⟨rfl, rfl, rfl, rfl,
   rfl, rfl, rfl, rfl,
   rfl, rfl, rfl, rfl, rfl,
   rfl, rfl, rfl,
   rfl, rfl, rfl⟩

end Sys2Proof.Proofs.Encoding

/-! Proofs about the arithmetic operations: SUB. -/

namespace Sys2Proof.Proofs.Arithmetic

open Sys2Proof Sys2Proof.Machine

/-- The subtractor's sum as the difference modulo 256, kept from going below 0 by the added 256. -/
theorem sumOf_subtractor_eq_ofNat (x y : Byte) :
    sumOf (subtractor x y) = BitVec.ofNat 8 ((256 + x.toNat - y.toNat) % 256) := by
  rw [← sumOf_subtractor_toNat, BitVec.ofNat_toNat, BitVec.setWidth_eq]

theorem execSub_eq_shows (s : State) :
    execSub s = .next (s.shows (sumOf (subtractor s.a s.b)) (sumOf (subtractor s.a s.b))
      (decide (s.b.toNat ≤ s.a.toNat))) := by
  rw [execSub, finish_eq_shows, carryOf_subtractor]

/-- Settles O8 (rule R48): the result is the subtractor's sum, whose carry out is the inverted borrow. -/
theorem subGivesDifferenceModulo256 : Obligations.SubGivesDifferenceModulo256 := by
  obtain ⟨-, hdecode, -⟩ := Laws.Encoding.sub
  obtain ⟨-, hrow, -⟩ := Encoding.controlSignalsAsTabulated
  exact ⟨hdecode, hrow, fun s => ⟨_, sumOf_subtractor_eq_ofNat s.a s.b, execSub_eq_shows s⟩⟩

end Sys2Proof.Proofs.Arithmetic

/-! Proofs about the decoder and the decode table: the laws of each operation, put together for all of them. -/

namespace Sys2Proof.Proofs.Decoding

open Sys2Proof Sys2Proof.Machine

/-- The lemmas of `Laws.Encoding`, one for each constructor, as one statement about every operation. -/
theorem encoding_statement : ∀ i : Instr, Laws.Encoding.Statement i
  | .add => Laws.Encoding.add
  | .sub => Laws.Encoding.sub
  | .inc => Laws.Encoding.inc
  | .dec => Laws.Encoding.dec
  | .lsl => Laws.Encoding.lsl
  | .lsr => Laws.Encoding.lsr
  | .asr => Laws.Encoding.asr
  | .rev => Laws.Encoding.rev
  | .nand => Laws.Encoding.nand
  | .nor => Laws.Encoding.nor
  | .xor => Laws.Encoding.xor
  | .passa => Laws.Encoding.passa
  | .passb => Laws.Encoding.passb
  | .and => Laws.Encoding.and
  | .or => Laws.Encoding.or
  | .xnor => Laws.Encoding.xnor
  | .cmp => Laws.Encoding.cmp
  | .nota => Laws.Encoding.nota
  | .notb => Laws.Encoding.notb

theorem decode_encode (i : Instr) : decode (encode i) = some i := by
  obtain ⟨-, hdecode, -⟩ := encoding_statement i
  exact hdecode

theorem muxSel_eq_true_iff (i : Instr) : (controlRow i).muxSel = true ↔ i.type = .logic := by
  obtain ⟨-, -, -, hmux⟩ := encoding_statement i
  exact hmux

end Sys2Proof.Proofs.Decoding

/-! Proofs about the logic operations. Each computes the vector `bitwise` of its one-bit truth table, which is how
`flagResult` writes it; so one equation for `exec` serves all ten. -/

namespace Sys2Proof.Proofs.Logic

open Sys2Proof Sys2Proof.Machine

/-! ## Which operations are logic operations -/

theorem type_eq_logic_iff (i : Instr) :
    i.type = .logic ↔ i ∈ [.nand, .nor, .xor, .passa, .passb, .and, .or, .xnor, .nota, .notb] := by
  cases i <;> decide

theorem controlRow_m_of_logic {i : Instr} (h : i.type = .logic) : (controlRow i).m = none := by
  cases i with
  | nand | nor | xor | passa | passb | and | or | xnor | nota | notb => rfl
  | add | sub | inc | dec | lsl | lsr | asr | rev | cmp => cases h

/-! ## What they compute -/

/-- The one-bit truth table of a logic operation, from bit `i` of `A` and of `B` (rule R51); an operation of another
type has none, and the value there is not used. -/
def truthTable : Instr → Bool → Bool → Bool
  | .nand, x, y => !(x && y)
  | .nor, x, y => !(x || y)
  | .xor, x, y => x != y
  | .passa, x, _ => x
  | .passb, _, y => y
  | .and, x, y => x && y
  | .or, x, y => x || y
  | .xnor, x, y => x == y
  | .nota, x, _ => !x
  | .notb, _, y => !y
  | .add, _, _ | .sub, _, _ | .inc, _, _ | .dec, _, _ | .lsl, _, _ | .lsr, _, _ | .asr, _, _ | .rev, _, _
  | .cmp, _, _ => false

theorem flagResult_of_logic {i : Instr} (h : i.type = .logic) (a b : Byte) :
    flagResult i a b = bitwise (truthTable i) a b := by
  cases i with
  | nand | nor | xor | passa | passb | and | or | xnor | nota | notb => rfl
  | add | sub | inc | dec | lsl | lsr | asr | rev | cmp => cases h

theorem getLsbD_flagResult_of_logic {i : Instr} (h : i.type = .logic) (a b : Byte) (k : Nat) (hk : k < 8) :
    (flagResult i a b).getLsbD k = truthTable i (a.getLsbD k) (b.getLsbD k) := by
  rw [flagResult_of_logic h, getLsbD_bitwise _ _ _ k hk]

/-- A meaning that finishes with `COUT` 0 and a vector with the bits of the truth table shows the flag result. -/
theorem exec_eq_shows_of_bits {i : Instr} (h : i.type = .logic) {s : State} {v : Byte}
    (hexec : exec i s = .next (s.finish v false))
    (hbits : ∀ k, k < 8 → v.getLsbD k = truthTable i (s.a.getLsbD k) (s.b.getLsbD k)) :
    exec i s = .next (s.shows (flagResult i s.a s.b) (flagResult i s.a s.b) false) := by
  have hv : v = flagResult i s.a s.b :=
    Byte.ext fun k hk => (hbits k hk).trans (getLsbD_flagResult_of_logic h s.a s.b k hk).symm
  rw [hexec, finish_eq_shows, hv]

/-- The inverted XOR of two bytes compares them bit by bit (rule R57). -/
theorem getLsbD_not_xor (a b : Byte) (k : Nat) (hk : k < 8) :
    (~~~(a ^^^ b)).getLsbD k = (a.getLsbD k == b.getLsbD k) := by
  rw [BitVec.getLsbD_not, BitVec.getLsbD_xor, decide_eq_true hk, Bool.true_and, ← Bool.bne_eq_xor, bne, Bool.not_not]

/-- The whole next state of a logic operation (rule R51). -/
theorem exec_of_logic {i : Instr} (h : i.type = .logic) (s : State) :
    exec i s = .next (s.shows (flagResult i s.a s.b) (flagResult i s.a s.b) false) := by
  cases i with
  | nand | nor | xor | passa | passb | and | or | nota | notb =>
    exact exec_eq_shows_of_bits h rfl fun k hk => by simp [truthTable, hk]
  | xnor => exact exec_eq_shows_of_bits h rfl (getLsbD_not_xor s.a s.b)
  | add | sub | inc | dec | lsl | lsr | asr | rev | cmp => cases h

/-- The same next state, its `OUT` given bit by bit: the form in which the obligations state it. -/
theorem exec_logic_bits {i : Instr} (h : i.type = .logic) (s : State) :
    ∃ r, exec i s = .next (s.shows r r false) ∧
      ∀ k, k < 8 → r.getLsbD k = truthTable i (s.a.getLsbD k) (s.b.getLsbD k) :=
  ⟨_, exec_of_logic h s, getLsbD_flagResult_of_logic h s.a s.b⟩

/-! ## The obligations -/

/-- Settles O35 (rule R51): the one-bit function of each operation is its `truthTable`. -/
theorem logicOperationsAreBitwise : Obligations.LogicOperationsAreBitwise :=
  ⟨type_eq_logic_iff, fun i => (Decoding.muxSel_eq_true_iff i).symm,
    fun i h => ⟨controlRow_m_of_logic h, truthTable i, exec_logic_bits h⟩⟩

/-- Settles O14 (rule R52): the row `nand` of `truthTable`. -/
theorem nandByTruthTable : Obligations.NandByTruthTable :=
  ⟨Decoding.decode_encode .nand, rfl, exec_logic_bits (i := .nand) rfl⟩

/-- Settles O15 (rule R53): the row `nor` of `truthTable`. -/
theorem norByTruthTable : Obligations.NorByTruthTable :=
  ⟨Decoding.decode_encode .nor, rfl, exec_logic_bits (i := .nor) rfl⟩

/-- Settles O16 (rule R54): the row `xor` of `truthTable`. -/
theorem xorByTruthTable : Obligations.XorByTruthTable :=
  ⟨Decoding.decode_encode .xor, rfl, exec_logic_bits (i := .xor) rfl⟩

/-- Settles O17 (rule R55): the row `and` of `truthTable`. -/
theorem andByTruthTable : Obligations.AndByTruthTable :=
  ⟨Decoding.decode_encode .and, rfl, exec_logic_bits (i := .and) rfl⟩

/-- Settles O18 (rule R56): the row `or` of `truthTable`. -/
theorem orByTruthTable : Obligations.OrByTruthTable :=
  ⟨Decoding.decode_encode .or, rfl, exec_logic_bits (i := .or) rfl⟩

/-- Settles O19 (rule R57): the row `xnor` of `truthTable` is the Boolean equality of the two bits. -/
theorem xnorByTruthTable : Obligations.XnorByTruthTable := by
  refine ⟨Decoding.decode_encode .xnor, rfl, fun s => ?_⟩
  obtain ⟨r, hexec, hbits⟩ := exec_logic_bits (i := .xnor) rfl s
  refine ⟨r, hexec, fun k hk => ?_⟩
  rw [hbits k hk, truthTable, beq_iff_eq]

end Sys2Proof.Proofs.Logic

/-! Proofs about the shifts: the whole next state of each, and the bits of its `OUT` from the law of the shared
operation (`getLsbD_shiftLeft`, `getLsbD_shiftRight`, `getLsbD_shiftRightArith`). -/

namespace Sys2Proof.Proofs.Shift

open Sys2Proof Sys2Proof.Machine

/-! ## The whole next state -/

theorem exec_lsl_eq_shows (s : State) :
    exec .lsl s = .next (s.shows (shiftLeft s.a) (shiftLeft s.a) (s.a.getLsbD 7)) :=
  congrArg Host.Outcome.next (finish_eq_shows s _ _)

theorem exec_lsr_eq_shows (s : State) :
    exec .lsr s = .next (s.shows (shiftRight s.a) (shiftRight s.a) (s.a.getLsbD 0)) :=
  congrArg Host.Outcome.next (finish_eq_shows s _ _)

theorem exec_asr_eq_shows (s : State) :
    exec .asr s = .next (s.shows (shiftRightArith s.a) (shiftRightArith s.a) (s.a.getLsbD 0)) :=
  congrArg Host.Outcome.next (finish_eq_shows s _ _)

/-! ## The bits of the result: the one that is filled in, and those that move -/

theorem getLsbD_zero_shiftLeft (v : Byte) : (shiftLeft v).getLsbD 0 = false :=
  getLsbD_shiftLeft v 0 (by decide)

theorem getLsbD_shiftLeft_of_pos (v : Byte) {k : Nat} (h1 : 1 ≤ k) (h7 : k ≤ 7) :
    (shiftLeft v).getLsbD k = v.getLsbD (k - 1) := by
  rw [getLsbD_shiftLeft v k (by omega), decide_eq_true h1, Bool.true_and]

theorem getLsbD_seven_shiftRight (v : Byte) : (shiftRight v).getLsbD 7 = false :=
  getLsbD_shiftRight v 7 (by decide)

theorem getLsbD_shiftRight_of_le (v : Byte) {k : Nat} (h6 : k ≤ 6) :
    (shiftRight v).getLsbD k = v.getLsbD (k + 1) := by
  rw [getLsbD_shiftRight v k (by omega), decide_eq_true h6, Bool.true_and]

theorem getLsbD_seven_shiftRightArith (v : Byte) : (shiftRightArith v).getLsbD 7 = v.getLsbD 7 :=
  getLsbD_shiftRightArith v 7 (by decide)

theorem getLsbD_shiftRightArith_of_le (v : Byte) {k : Nat} (h6 : k ≤ 6) :
    (shiftRightArith v).getLsbD k = v.getLsbD (k + 1) := by
  rw [getLsbD_shiftRightArith v k (by omega), if_pos h6]

/-! ## The obligations -/

/-- Settles O11 (rule R58): `OUT` is `shiftLeft` of port `A`. -/
theorem lslMovesBitsUp : Obligations.LslMovesBitsUp :=
  ⟨Decoding.decode_encode .lsl, fun s =>
    ⟨_, exec_lsl_eq_shows s, getLsbD_zero_shiftLeft s.a, fun _ => getLsbD_shiftLeft_of_pos s.a⟩⟩

/-- Settles O12 (rule R59): `OUT` is `shiftRight` of port `A`. -/
theorem lsrMovesBitsDown : Obligations.LsrMovesBitsDown :=
  ⟨Decoding.decode_encode .lsr, fun s =>
    ⟨_, exec_lsr_eq_shows s, getLsbD_seven_shiftRight s.a, fun _ => getLsbD_shiftRight_of_le s.a⟩⟩

/-- Settles O13 (rule R60): `OUT` is `shiftRightArith` of port `A`. -/
theorem asrMovesBitsDownKeepingSign : Obligations.AsrMovesBitsDownKeepingSign :=
  ⟨Decoding.decode_encode .asr, fun s =>
    ⟨_, exec_asr_eq_shows s, getLsbD_seven_shiftRightArith s.a, fun _ => getLsbD_shiftRightArith_of_le s.a⟩⟩

end Sys2Proof.Proofs.Shift

/-! Proofs about the special operations PASSA, PASSB, NOTA and NOTB. -/

namespace Sys2Proof.Proofs.Special

open Sys2Proof Sys2Proof.Machine

/-! ## The whole next state of a pass: its result is the port itself -/

theorem exec_passa_eq_shows (s : State) : exec .passa s = .next (s.shows s.a s.a false) :=
  congrArg Host.Outcome.next (finish_eq_shows s _ _)

theorem exec_passb_eq_shows (s : State) : exec .passb s = .next (s.shows s.b s.b false) :=
  congrArg Host.Outcome.next (finish_eq_shows s _ _)

/-! ## The obligations -/

/-- Settles O22 (rule R63): `OUT` is port `A`. -/
theorem passaCopiesA : Obligations.PassaCopiesA :=
  ⟨Decoding.decode_encode .passa, rfl, exec_passa_eq_shows⟩

/-- Settles O23 (rule R64): `OUT` is port `B`. -/
theorem passbCopiesB : Obligations.PassbCopiesB :=
  ⟨Decoding.decode_encode .passb, rfl, exec_passb_eq_shows⟩

/-- Settles O24 (rule R65): the row `nota` of `Logic.truthTable`. -/
theorem notaInvertsA : Obligations.NotaInvertsA :=
  ⟨Decoding.decode_encode .nota, rfl, Logic.exec_logic_bits (i := .nota) rfl⟩

/-- Settles O25 (rule R66): the row `notb` of `Logic.truthTable`. -/
theorem notbInvertsB : Obligations.NotbInvertsB :=
  ⟨Decoding.decode_encode .notb, rfl, Logic.exec_logic_bits (i := .notb) rfl⟩

end Sys2Proof.Proofs.Special

/-! Proofs about `eval`: the flag result of each operation as an operation on bytes, and the refinement of `eval` by
`exec`, from which the statements about all 19 operations follow. -/

namespace Sys2Proof.Proofs.Refinement

open Sys2Proof Sys2Proof.Machine

/-! ## The shared operations as operations on bytes -/

theorem sumOf_adder_eq_add (x y : Byte) : sumOf (adder x y false) = x + y :=
  BitVec.eq_of_toNat_eq (by rw [sumOf_adder_toNat, BitVec.toNat_add]; rfl)

theorem sumOf_subtractor_eq_sub (x y : Byte) : sumOf (subtractor x y) = x - y := by
  have hy := y.isLt
  refine BitVec.eq_of_toNat_eq ?_
  rw [sumOf_subtractor_toNat, BitVec.toNat_sub]
  omega

theorem shiftLeft_eq (v : Byte) : shiftLeft v = v <<< 1 :=
  Byte.ext fun k hk => by
    rw [getLsbD_shiftLeft v k hk, BitVec.getLsbD_shiftLeft, decide_eq_true hk, Bool.true_and]
    simp [Nat.one_le_iff_ne_zero]

theorem shiftRight_eq (v : Byte) : shiftRight v = v >>> 1 :=
  Byte.ext fun k hk => by
    rw [getLsbD_shiftRight v k hk, BitVec.getLsbD_ushiftRight, Nat.add_comm 1 k]
    by_cases h6 : k ≤ 6
    · rw [decide_eq_true h6, Bool.true_and]
    · rw [decide_eq_false h6, Bool.false_and, BitVec.getLsbD_of_ge v (k + 1) (by omega)]

theorem shiftRightArith_eq (v : Byte) : shiftRightArith v = v.sshiftRight 1 :=
  Byte.ext fun k hk => by
    have h8 : ¬8 ≤ k := by omega
    have h6 : k ≤ 6 ↔ 1 + k < 8 := by omega
    rw [getLsbD_shiftRightArith v k hk, BitVec.getLsbD_sshiftRight, decide_eq_false h8, Bool.not_false, Bool.true_and,
      BitVec.msb_eq_getLsbD_last, Nat.add_comm k 1]
    simp only [h6]

/-! ## The flag result of each operation -/

theorem flagResult_add (a b : Byte) : flagResult .add a b = a + b :=
  BitVec.eq_of_toNat_eq (by rw [flagResult, BitVec.toNat_ofNat, BitVec.toNat_add])

theorem flagResult_sub (a b : Byte) : flagResult .sub a b = a - b := by
  have hb := b.isLt
  refine BitVec.eq_of_toNat_eq ?_
  rw [flagResult, BitVec.toNat_ofInt, BitVec.toNat_sub]
  omega

theorem flagResult_inc (a b : Byte) : flagResult .inc a b = a + 1#8 :=
  flagResult_add a 1#8

theorem flagResult_dec (a b : Byte) : flagResult .dec a b = a - 1#8 :=
  flagResult_sub a 1#8

theorem flagResult_cmp (a b : Byte) : flagResult .cmp a b = a - b :=
  flagResult_sub a b

theorem flagResult_lsl (a b : Byte) : flagResult .lsl a b = shiftLeft a := by
  rw [shiftLeft_eq]
  refine BitVec.eq_of_toNat_eq ?_
  rw [flagResult, BitVec.toNat_ofNat, BitVec.toNat_shiftLeft, Nat.shiftLeft_eq, Nat.mul_comm]

theorem flagResult_lsr (a b : Byte) : flagResult .lsr a b = shiftRight a := by
  have ha := a.isLt
  rw [shiftRight_eq]
  refine BitVec.eq_of_toNat_eq ?_
  rw [flagResult, BitVec.toNat_ofNat, BitVec.toNat_ushiftRight, Nat.shiftRight_eq_div_pow]
  omega

theorem flagResult_asr (a b : Byte) : flagResult .asr a b = shiftRightArith a := by
  have h : a.toInt / 2 = (shiftRightArith a).toInt := by
    rw [shiftRightArith_eq, BitVec.toInt_sshiftRight, Int.shiftRight_eq_div_pow]
    rfl
  rw [flagResult, h, BitVec.ofInt_toInt]

theorem flagResult_rev (a b : Byte) : flagResult .rev a b = rev8 a := rfl

/-- A logic operation whose bits are those of the operator `v` computes `v` (rule R51). -/
theorem flagResult_of_logic_bits {i : Instr} (h : i.type = .logic) {a b v : Byte}
    (hbits : ∀ k, k < 8 → v.getLsbD k = Logic.truthTable i (a.getLsbD k) (b.getLsbD k)) : flagResult i a b = v :=
  Byte.ext fun k hk => (Logic.getLsbD_flagResult_of_logic h a b k hk).trans (hbits k hk).symm

theorem flagResult_nand (a b : Byte) : flagResult .nand a b = ~~~(a &&& b) :=
  flagResult_of_logic_bits rfl fun k hk => by simp [Logic.truthTable, hk]

theorem flagResult_nor (a b : Byte) : flagResult .nor a b = ~~~(a ||| b) :=
  flagResult_of_logic_bits rfl fun k hk => by simp [Logic.truthTable, hk]

theorem flagResult_xor (a b : Byte) : flagResult .xor a b = a ^^^ b :=
  flagResult_of_logic_bits rfl fun k _ => by simp [Logic.truthTable]

theorem flagResult_passa (a b : Byte) : flagResult .passa a b = a :=
  flagResult_of_logic_bits rfl fun _ _ => rfl

theorem flagResult_passb (a b : Byte) : flagResult .passb a b = b :=
  flagResult_of_logic_bits rfl fun _ _ => rfl

theorem flagResult_xnor (a b : Byte) : flagResult .xnor a b = ~~~(a ^^^ b) :=
  flagResult_of_logic_bits rfl (Logic.getLsbD_not_xor a b)

theorem flagResult_nota (a b : Byte) : flagResult .nota a b = ~~~a :=
  flagResult_of_logic_bits rfl fun k hk => by simp [Logic.truthTable, hk]

/-! ## The carry of each operation -/

theorem carryResult_add (a b : Byte) (c : Bool) : carryResult .add a b c = carryOf (adder a b false) :=
  (carryOf_adder a b false).symm

theorem carryResult_sub (a b : Byte) (c : Bool) : carryResult .sub a b c = carryOf (subtractor a b) :=
  (carryOf_subtractor a b).symm

theorem carryResult_inc (a b : Byte) (c : Bool) : carryResult .inc a b c = carryOf (adder a constantOne false) := by
  have ha := a.isLt
  have h : a.toNat = 255 ↔ 256 ≤ a.toNat + 1 := by omega
  simp only [carryResult, carryOf_adder, h]
  rfl

theorem carryResult_dec (a b : Byte) (c : Bool) : carryResult .dec a b c = carryOf (subtractor a constantOne) := by
  have h : a.toNat ≠ 0 ↔ 1 ≤ a.toNat := by omega
  simp only [carryResult, carryOf_subtractor, h]
  rfl

theorem carryResult_lsl (a b : Byte) (c : Bool) : carryResult .lsl a b c = a.getLsbD 7 :=
  (BitVec.msb_eq_decide a).symm

theorem carryResult_lsr (a b : Byte) (c : Bool) : carryResult .lsr a b c = a.getLsbD 0 := by
  rw [carryResult, BitVec.getLsbD, Nat.testBit_zero]

theorem carryResult_asr (a b : Byte) (c : Bool) : carryResult .asr a b c = a.getLsbD 0 :=
  carryResult_lsr a b c

theorem carryResult_of_logic {i : Instr} (h : i.type = .logic) (a b : Byte) (c : Bool) :
    carryResult i a b c = false := by
  cases i with
  | nand | nor | xor | passa | passb | and | or | xnor | nota | notb => rfl
  | add | sub | inc | dec | lsl | lsr | asr | rev | cmp => cases h

/-! ## The state an operation answers -/

theorem outResult_of_ne_cmp {i : Instr} (h : i ≠ .cmp) (a b c : Byte) : outResult i a b c = flagResult i a b := by
  cases i with
  | cmp => exact absurd rfl h
  | add | sub | inc | dec | lsl | lsr | asr | rev => rfl
  | nand | nor | xor | passa | passb | and | or | xnor | nota | notb => rfl

/-- `s` with the outputs of `eval` for operation `i`, and its draws counted. -/
def answer (i : Instr) (s : State) : State :=
  { s.showing (eval i s.a s.b s.draw) with draws := s.draws + drawCount i }

@[simp] theorem answer_func (i : Instr) (s : State) : (answer i s).func = s.func := rfl
@[simp] theorem answer_a (i : Instr) (s : State) : (answer i s).a = s.a := rfl
@[simp] theorem answer_b (i : Instr) (s : State) : (answer i s).b = s.b := rfl
@[simp] theorem answer_pending (i : Instr) (s : State) : (answer i s).pending = s.pending := rfl
@[simp] theorem answer_record (i : Instr) (s : State) : (answer i s).record = s.record := rfl
@[simp] theorem answer_draws (i : Instr) (s : State) : (answer i s).draws = s.draws + drawCount i := rfl
@[simp] theorem answer_outputs (i : Instr) (s : State) : (answer i s).outputs = eval i s.a s.b s.draw := rfl
@[simp] theorem answer_less (i : Instr) (s : State) : (answer i s).less = decide (s.a.toNat < s.b.toNat) := rfl
@[simp] theorem answer_equal (i : Instr) (s : State) : (answer i s).equal = decide (s.a.toNat = s.b.toNat) := rfl
@[simp] theorem answer_positive (i : Instr) (s : State) :
    (answer i s).positive = decide (0 < (flagResult i s.a s.b).toInt) := rfl
@[simp] theorem answer_cout (i : Instr) (s : State) :
    (answer i s).cout = carryResult i s.a s.b (Config.revCout s.draws) := rfl

theorem answer_out_of_ne_cmp {i : Instr} (h : i ≠ .cmp) (s : State) : (answer i s).out = flagResult i s.a s.b :=
  outResult_of_ne_cmp h _ _ _

/-- A meaning that finishes with the flag result and the carry of the table answers `answer`, if it draws nothing. -/
theorem exec_eq_answer_of_finish {i : Instr} {s : State} {r : Byte} {c : Bool} (hcmp : i ≠ .cmp)
    (hdraws : drawCount i = 0) (hexec : exec i s = .next (s.finish r c)) (hr : flagResult i s.a s.b = r)
    (hc : carryResult i s.a s.b (Config.revCout s.draws) = c) : exec i s = .next (answer i s) := by
  rw [hexec, finish_eq_shows, ← hr, ← hc, answer, hdraws, eval, outResult_of_ne_cmp hcmp]
  rfl

theorem exec_rev_eq_answer (s : State) : exec .rev s = .next (answer .rev s) :=
  congrArg (fun t : State => Host.Outcome.next t.drawn) (finish_eq_shows s (rev8 s.a) (Config.revCout s.draws))

theorem exec_cmp_eq_answer (s : State) : exec .cmp s = .next (answer .cmp s) := by
  have h : (s.driveOut (Config.cmpOut s.draws)).driveFlags (sumOf (subtractor s.a s.b)) (carryOf (subtractor s.a s.b)) =
      s.shows (Config.cmpOut s.draws) (flagResult .cmp s.a s.b) (carryResult .sub s.a s.b false) := by
    rw [driveOut_driveFlags_eq_shows, sumOf_subtractor_eq_sub, ← flagResult_cmp, ← carryResult_sub]
  exact congrArg (fun t : State => Host.Outcome.next t.drawn) h

/-- Every operation ends in the state that `eval` gives: the arithmetic operations by the laws of the adder, the shifts
by their bits, the logic operations by their truth table. -/
theorem exec_eq_answer (i : Instr) (s : State) : exec i s = .next (answer i s) := by
  cases i with
  | add =>
    exact exec_eq_answer_of_finish (by decide) rfl rfl ((flagResult_add _ _).trans (sumOf_adder_eq_add _ _).symm)
      (carryResult_add _ _ _)
  | sub =>
    exact exec_eq_answer_of_finish (by decide) rfl rfl ((flagResult_sub _ _).trans (sumOf_subtractor_eq_sub _ _).symm)
      (carryResult_sub _ _ _)
  | inc =>
    exact exec_eq_answer_of_finish (by decide) rfl rfl ((flagResult_inc _ _).trans (sumOf_adder_eq_add _ _).symm)
      (carryResult_inc _ _ _)
  | dec =>
    exact exec_eq_answer_of_finish (by decide) rfl rfl ((flagResult_dec _ _).trans (sumOf_subtractor_eq_sub _ _).symm)
      (carryResult_dec _ _ _)
  | lsl => exact exec_eq_answer_of_finish (by decide) rfl rfl (flagResult_lsl _ _) (carryResult_lsl _ _ _)
  | lsr => exact exec_eq_answer_of_finish (by decide) rfl rfl (flagResult_lsr _ _) (carryResult_lsr _ _ _)
  | asr => exact exec_eq_answer_of_finish (by decide) rfl rfl (flagResult_asr _ _) (carryResult_asr _ _ _)
  | rev => exact exec_rev_eq_answer s
  | cmp => exact exec_cmp_eq_answer s
  | nand | nor | xor | passa | passb | and | or | xnor | nota | notb => exact Logic.exec_of_logic rfl s

theorem exec_eq_next_iff {i : Instr} {s t : State} : exec i s = .next t ↔ t = answer i s := by
  rw [exec_eq_answer, Host.Outcome.next.injEq, eq_comm]

theorem drawCount_eq (i : Instr) : drawCount i = if i ∈ [.cmp, .rev] then 1 else 0 := by
  cases i <;> rfl

theorem carryResult_eq_of_ne_rev {i : Instr} (h : i ≠ .rev) (a b : Byte) (c c' : Bool) :
    carryResult i a b c = carryResult i a b c' := by
  cases i with
  | rev => exact absurd rfl h
  | add | sub | inc | dec | lsl | lsr | asr | cmp => rfl
  | nand | nor | xor | passa | passb | and | or | xnor | nota | notb => rfl

/-! ## The obligations about every operation -/

/-- Settles O30 (rule R10): `answer` is the state it names. -/
theorem execRefinesEval : Obligations.ExecRefinesEval :=
  exec_eq_answer

/-- Settles O29 (rule R74). -/
theorem everyOperationCompletes : Obligations.EveryOperationCompletes :=
  fun i s => ⟨_, exec_eq_answer i s⟩

/-- Settles O31 (rules R12, R18): the frame of `answer`, and its count of draws from `drawCount`. -/
theorem operationsChangeOnlyOutputs : Obligations.OperationsChangeOnlyOutputs := by
  intro i s t ht
  obtain rfl := exec_eq_next_iff.mp ht
  refine ⟨⟨rfl, rfl, rfl, rfl, rfl⟩, fun hi => ?_, fun hi => ?_⟩
  · rw [answer_draws, drawCount_eq, if_neg hi, Nat.add_zero]
  · rw [answer_draws, drawCount_eq, if_pos hi]

/-- Settles O34 (95_test_vectors.md Q15): `eval` uses the draws in `outResult` for CMP and in `carryResult` for REV. -/
theorem freeValuesReachOnlyCmpOutAndRevCout : Obligations.FreeValuesReachOnlyCmpOutAndRevCout := by
  intro i s n
  refine ⟨_, _, exec_eq_answer i s, exec_eq_answer i _, rfl, rfl, rfl, fun hcmp => ?_, fun hrev => ?_⟩
  · rw [answer_out_of_ne_cmp hcmp, answer_out_of_ne_cmp hcmp]
  · exact carryResult_eq_of_ne_rev hrev _ _ _ _

end Sys2Proof.Proofs.Refinement

/-! Proofs about the decoder and an evaluation of the ports: the opcode decides, and nothing else does. -/

namespace Sys2Proof.Proofs.Decoding

open Sys2Proof Sys2Proof.Machine

theorem encode_eq_of_decode : ∀ func : Opcode, ∀ i ∈ decode func, encode i = func := by
  decide

theorem decode_eq_some_iff {func : Opcode} {i : Instr} : decode func = some i ↔ func = encode i :=
  ⟨fun h => (encode_eq_of_decode func i h).symm, fun h => h ▸ decode_encode i⟩

theorem decode_eq_none_iff {func : Opcode} : decode func = none ↔ 19 ≤ func.toNat := by
  refine ⟨fun h => ?_, decode_eq_none_of_reserved func⟩
  by_contra hle
  have hsome := decode_isSome_of_implemented func (by omega)
  rw [h] at hsome
  cases hsome

theorem exists_decode_of_implemented {func : Opcode} (h : func.toNat ≤ 18) : ∃ i, decode func = some i :=
  Option.isSome_iff_exists.mp (decode_isSome_of_implemented func h)

theorem tableWord_encode (i : Instr) {nbits : Nat} (h : 5 ≤ nbits) :
    tableWord nbits (encode i).toNat = (encode i).toNat :=
  Nat.mod_eq_of_lt <| (encode i).isLt.trans_le <| Nat.pow_le_pow_right (by decide) h

/-- A word decodes to `i` exactly if its bits are the opcode of `i` (log 22). -/
theorem decodeTableWord_eq_some_iff {nbits w : Nat} {i : Instr} :
    decodeTableWord nbits w = some i ↔ tableWord nbits w = (encode i).toNat := by
  have hi : (encode i).toNat < 32 := (encode i).isLt
  by_cases hw : tableWord nbits w < 32
  · rw [decodeTableWord, if_pos hw, decode_eq_some_iff, ← BitVec.toNat_inj, BitVec.toNat_ofNat, Nat.mod_eq_of_lt hw]
  · have hne : tableWord nbits w ≠ (encode i).toNat := by omega
    simp [decodeTableWord, hw, hne]

/-- Settles O1 (rule R33): each code is the `encode` of its operation. -/
theorem opcodeBitsDecodeAsTabulated : Obligations.OpcodeBitsDecodeAsTabulated :=
  ⟨decode_encode .add, decode_encode .sub, decode_encode .inc, decode_encode .dec,
   decode_encode .lsl, decode_encode .lsr, decode_encode .asr, decode_encode .rev,
   decode_encode .nand, decode_encode .nor, decode_encode .xor, decode_encode .passa,
   decode_encode .passb, decode_encode .and, decode_encode .or, decode_encode .xnor,
   decode_encode .cmp, decode_encode .nota, decode_encode .notb⟩

end Sys2Proof.Proofs.Decoding

namespace Sys2Proof.Proofs.Evaluation

open Sys2Proof Sys2Proof.Machine Refinement

theorem evaluate_eq_answer {s : State} {i : Instr} (h : decode s.func = some i) : evaluate s = .next (answer i s) :=
  (evaluate_of_decode h).trans (exec_eq_answer i s)

theorem evaluate_eq_next_iff {s t : State} :
    evaluate s = .next t ↔ ∃ i, decode s.func = some i ∧ t = answer i s := by
  constructor
  · intro h
    obtain ⟨i, hi, hexec⟩ := evaluate_next h
    exact ⟨i, hi, exec_eq_next_iff.mp hexec⟩
  · rintro ⟨i, hi, rfl⟩
    exact evaluate_eq_answer hi

/-- Settles O5 (rule R10). -/
theorem stepRunsDecodedOperation : Obligations.StepRunsDecodedOperation :=
  fun _ _ hp hd => (step_of_no_pending hp).trans (evaluate_of_decode hd)

/-- Settles O2 (rules R31 to R34, log 22): the driven word is the opcode, which decodes back to its operation. -/
theorem encodedWordRunsItsOperation : Obligations.EncodedWordRunsItsOperation := by
  intro i nbits hn
  obtain ⟨hle, -⟩ := Decoding.encoding_statement i
  refine ⟨fun w => Decoding.decodeTableWord_eq_some_iff, hle, fun s => ?_⟩
  have hdriven : s.withFetchWord nbits (encode i).toNat = { s with func := encode i, pending := [] } := by
    rw [State.withFetchWord, State.driveWord, Decoding.tableWord_encode i hn, BitVec.ofNat_toNat, BitVec.setWidth_eq]
  rw [hdriven]
  exact stepRunsDecodedOperation _ i rfl (Decoding.decode_encode i)

/-- Settles O3 (rules R35, R75): an evaluation is refused where `decode` has no operation, and answers elsewhere. -/
theorem evaluationRefusedExactlyOnReserved : Obligations.EvaluationRefusedExactlyOnReserved := by
  intro s hp
  rw [step_of_no_pending hp]
  by_cases h : 19 ≤ s.func.toNat
  · have hle : ¬s.func.toNat ≤ 18 := by omega
    simp [evaluate_of_reserved (Decoding.decode_eq_none_iff.mpr h), h, hle]
  · have hle : s.func.toNat ≤ 18 := by omega
    obtain ⟨i, hi⟩ := Decoding.exists_decode_of_implemented hle
    simp [evaluate_eq_answer hi, h, hle]

/-- Settles O32 (D1): the outputs are those of `eval` for `FUNC`, the ports and the draws, in which both states
agree. -/
theorem evaluationsAreIndependent : Obligations.EvaluationsAreIndependent := by
  intro s u hs hu hfunc ha hb hdraws t ht
  rw [step_of_no_pending hs] at ht
  obtain ⟨i, hi, rfl⟩ := evaluate_eq_next_iff.mp ht
  have hstep : step u = .next (answer i u) := by
    rw [step_of_no_pending hu, evaluate_eq_answer (hfunc ▸ hi)]
  refine ⟨_, hstep, ?_, ?_⟩
  · rw [answer_outputs, answer_outputs, State.draw, State.draw, ha, hb, hdraws]
  · rw [answer_draws, answer_draws, hdraws]

end Sys2Proof.Proofs.Evaluation

/-! Proofs about the host's sequence (decision D22): what a host operand, a guard and a host step can do. -/

namespace Sys2Proof.Proofs.HostSteps

open Sys2Proof Sys2Proof.Machine Refinement Evaluation

/-! ## Guards -/

theorem guardHolds_some_iff {record : List (Option Outputs)} {g : HostGuard} :
    guardHolds record (some g) = true ↔ ∃ o, record[g.step]? = some (some o) ∧ o.flag g.flag = g.expect := by
  rw [guardHolds]
  split
  next o ho => simp [ho]
  next ho => simp [ho]
  next ho => simp [ho]

/-- Settles O48 (log 15): the guard reads `Outputs.flag`, a projection for each name. -/
theorem guardReadsRecordedFlag : Obligations.GuardReadsRecordedFlag := by
  rintro record ⟨j, flag, expect⟩
  refine ⟨rfl, guardHolds_some_iff.trans (exists_congr fun o => and_congr_right fun _ => ?_)⟩
  cases flag <;> simp [Outputs.flag]

/-! ## Taken and left-out steps -/

/-- Settles O47 (D22). -/
theorem guardLeavesStepOut : Obligations.GuardLeavesStepOut :=
  fun _ _ rest hp hg => (step_of_pending hp).trans (hostTurn_left_out rest hg)

theorem step_of_taken {s : State} {h : HostStep} {rest : List HostStep} (hp : s.pending = h :: rest)
    (hg : guardHolds s.record h.guard = true) : step s = takeHostStep h rest s :=
  (step_of_pending hp).trans (hostTurn_taken rest hg)

/-- `s` with the inputs of an evaluation presented and the host gone on to `rest`, at draw `n`. -/
def presented (func : Opcode) (x y : Byte) (rest : List HostStep) (n : Nat) (s : State) : State :=
  { s with func := func, a := x, b := y, pending := rest, draws := n }

/-- The host has recorded what the outputs show. -/
def recorded (t : State) : State :=
  t.log (some t.outputs)

/-- A taken step answers a next state only by evaluating the operation of its opcode on two definite operands, and
records the outputs. -/
theorem step_next_of_taken {s t : State} {h : HostStep} {rest : List HostStep} (hp : s.pending = h :: rest)
    (hg : guardHolds s.record h.guard = true) (ht : step s = .next t) :
    ∃ i x y n, decode h.func = some i ∧ t = recorded (answer i (presented h.func x y rest n s)) := by
  rw [step_of_taken hp hg] at ht
  obtain ⟨x, y, n, u, hu, rfl⟩ := takeHostStep_next ht
  obtain ⟨i, hi, rfl⟩ := evaluate_eq_next_iff.mp hu
  exact ⟨i, x, y, n, hi, rfl⟩

/-- All that a step can do: evaluate the ports, leave a host step out, or take it. -/
theorem step_next_cases {s t : State} (ht : step s = .next t) :
    (∃ i, s.pending = [] ∧ decode s.func = some i ∧ t = answer i s) ∨
    (∃ h rest, s.pending = h :: rest ∧ guardHolds s.record h.guard = false ∧ t = (s.setPending rest).log none) ∨
    ∃ h rest i x y n, s.pending = h :: rest ∧ guardHolds s.record h.guard = true ∧ decode h.func = some i ∧
      t = recorded (answer i (presented h.func x y rest n s)) := by
  cases hp : s.pending with
  | nil =>
    rw [step_of_no_pending hp] at ht
    obtain ⟨i, hi, rfl⟩ := evaluate_eq_next_iff.mp ht
    exact .inl ⟨i, rfl, hi, rfl⟩
  | cons h rest =>
    cases hg : guardHolds s.record h.guard with
    | false =>
      have hleft := guardLeavesStepOut s h rest hp hg
      exact .inr <| .inl ⟨h, rest, rfl, hg, Host.Outcome.next.inj (ht.symm.trans hleft)⟩
    | true =>
      obtain ⟨i, x, y, n, hi, rfl⟩ := step_next_of_taken hp hg ht
      exact .inr <| .inr ⟨h, rest, i, x, y, n, rfl, hg, hi, rfl⟩

/-- Settles O46 (D22, log 14). -/
theorem hostStepUsesOneAndRecordsOne : Obligations.HostStepUsesOneAndRecordsOne := by
  intro s t h rest hp ht
  cases hg : guardHolds s.record h.guard with
  | false =>
    rw [guardLeavesStepOut s h rest hp hg] at ht
    obtain rfl := Host.Outcome.next.inj ht
    exact ⟨rfl, none, rfl, by simp⟩
  | true =>
    obtain ⟨i, x, y, n, -, rfl⟩ := step_next_of_taken hp hg ht
    exact ⟨rfl, _, rfl, by simp, fun _ => ⟨rfl, rfl⟩⟩

end Sys2Proof.Proofs.HostSteps

/-! Proofs about the invariant of the machine. -/

namespace Sys2Proof.Proofs.Invariant

open Sys2Proof Sys2Proof.Machine Refinement Evaluation HostSteps

theorem outputsConform_answer {s : State} {i : Instr} (h : decode s.func = some i) : OutputsConform (answer i s) :=
  ⟨i, s.draw, h, rfl⟩

theorem possible_answer (i : Instr) (s : State) : Possible (answer i s).outputs :=
  ⟨i, s.a, s.b, s.draw, rfl⟩

/-- Recording one more entry keeps the record conforming, if the entry is none or possible. -/
theorem recordConforms_log {s : State} {entry : Option Outputs} (hs : RecordConforms s)
    (hentry : ∀ o, entry = some o → Possible o) : RecordConforms (s.log entry) := by
  intro o ho
  rcases List.mem_append.mp ho with hold | hnew
  · exact hs o hold
  · exact hentry o (List.mem_singleton.mp hnew).symm

/-- Settles O44 (D1, D22), by the three things a step can do. -/
theorem stepKeepsOutputsConforming : Obligations.StepKeepsOutputsConforming := by
  rintro s t ⟨houtputs, hrecord⟩ ht
  obtain ⟨i, -, hi, rfl⟩ | ⟨h, rest, -, -, rfl⟩ | ⟨h, rest, i, x, y, n, -, -, hi, rfl⟩ := step_next_cases ht
  · exact ⟨outputsConform_answer hi, hrecord⟩
  · exact ⟨houtputs, recordConforms_log hrecord nofun⟩
  · exact ⟨outputsConform_answer hi,
      recordConforms_log hrecord fun o ho => Option.some.inj ho ▸ possible_answer i _⟩

/-- Settles O45 (log 2): the reset outputs are those of ADD on two zero ports. -/
theorem resetOutputsConform : Obligations.ResetOutputsConform :=
  ⟨⟨.add, ⟨0, false⟩, rfl, by decide⟩, nofun⟩

end Sys2Proof.Proofs.Invariant

/-! Proofs about ADD, INC, DEC, CMP and REV: the equation of `exec_eq_answer`, its result and carry in the reading of
the obligation. -/

namespace Sys2Proof.Proofs.Arithmetic

open Sys2Proof Sys2Proof.Machine Refinement

theorem flagResult_add_eq_ofNat (a b : Byte) : flagResult .add a b = BitVec.ofNat 8 ((a.toNat + b.toNat) % 256) :=
  BitVec.eq_of_toNat_eq (by simp [flagResult])

theorem flagResult_dec_eq_ofNat (a b : Byte) : flagResult .dec a b = BitVec.ofNat 8 ((a.toNat + 255) % 256) := by
  refine (flagResult_dec a b).trans (BitVec.eq_of_toNat_eq ?_)
  simp [BitVec.toNat_sub, Nat.add_comm]

theorem flagResult_cmp_eq_ofNat (a b : Byte) :
    flagResult .cmp a b = BitVec.ofNat 8 ((256 + a.toNat - b.toNat) % 256) := by
  rw [flagResult_cmp, ← sumOf_subtractor_eq_sub, sumOf_subtractor_eq_ofNat]

theorem carryResult_inc_eq (a b : Byte) (c : Bool) : carryResult .inc a b c = decide (a = 0xFF#8) :=
  decide_eq_decide.mpr (BitVec.toNat_inj (y := 0xFF#8))

theorem carryResult_dec_eq (a b : Byte) (c : Bool) : carryResult .dec a b c = decide (a ≠ 0x00#8) :=
  decide_eq_decide.mpr (BitVec.toNat_inj (y := 0x00#8)).not

/-- Settles O7 (rule R47). -/
theorem addGivesSumModulo256 : Obligations.AddGivesSumModulo256 :=
  ⟨Decoding.decode_encode .add, rfl, fun s => ⟨_, flagResult_add_eq_ofNat s.a s.b, exec_eq_answer .add s⟩⟩

/-- Settles O9 (rule R49): INC is the sum of ADD with the constant 1. -/
theorem incGivesSuccessorModulo256 : Obligations.IncGivesSuccessorModulo256 := by
  refine ⟨Decoding.decode_encode .inc, fun s => ⟨_, flagResult_add_eq_ofNat s.a 1#8, ?_⟩⟩
  rw [← carryResult_inc_eq s.a s.b (Config.revCout s.draws)]
  exact exec_eq_answer .inc s

/-- Settles O10 (rule R50). -/
theorem decGivesPredecessorModulo256 : Obligations.DecGivesPredecessorModulo256 := by
  refine ⟨Decoding.decode_encode .dec, fun s => ⟨_, flagResult_dec_eq_ofNat s.a s.b, ?_⟩⟩
  rw [← carryResult_dec_eq s.a s.b (Config.revCout s.draws)]
  exact exec_eq_answer .dec s

/-- Settles O20 (rule R61). -/
theorem cmpDrivesFlagsOfDifference : Obligations.CmpDrivesFlagsOfDifference :=
  ⟨Decoding.decode_encode .cmp, rfl, fun s => ⟨_, flagResult_cmp_eq_ofNat s.a s.b, exec_eq_answer .cmp s⟩⟩

/-- Settles O21 (rule R62). -/
theorem revReversesBits : Obligations.RevReversesBits :=
  ⟨Decoding.decode_encode .rev, fun s => ⟨_, getLsbD_rev8 s.a, exec_eq_answer .rev s⟩⟩

end Sys2Proof.Proofs.Arithmetic

/-! Proofs about the shifts as arithmetic. -/

namespace Sys2Proof.Proofs.Shift

open Sys2Proof Sys2Proof.Machine Refinement

/-- `COUT` of LSL is the ninth bit of the doubled operand. -/
theorem lsl_doubles (a b : Byte) (c : Bool) :
    256 * (carryResult .lsl a b c).toNat + (flagResult .lsl a b).toNat = 2 * a.toNat := by
  have ha := a.isLt
  rw [flagResult, BitVec.toNat_ofNat, carryResult]
  by_cases h : 128 ≤ a.toNat
  · rw [decide_eq_true h, Bool.toNat_true]
    omega
  · rw [decide_eq_false h, Bool.toNat_false]
    omega

/-- `COUT` of LSR is the remainder of the halved operand. -/
theorem lsr_halves (a b : Byte) (c : Bool) :
    a.toNat = 2 * (flagResult .lsr a b).toNat + (carryResult .lsr a b c).toNat := by
  have ha := a.isLt
  rw [flagResult, BitVec.toNat_ofNat, carryResult]
  rcases Nat.mod_two_eq_zero_or_one a.toNat with h | h <;>
  · simp only [h, decide_true, zero_ne_one, decide_false, Bool.toNat_true, Bool.toNat_false]
    omega

/-- The same for ASR and the signed value, which is as odd as the unsigned one. -/
theorem asr_halves (a b : Byte) (c : Bool) :
    a.toInt = 2 * (flagResult .asr a b).toInt + (carryResult .asr a b c).toNat := by
  have hlo := a.le_toInt
  have hhi := a.toInt_lt
  have hodd : a.toInt % 2 = (a.toNat % 2 : Nat) := by
    rw [BitVec.toInt_eq_toNat_cond]
    split <;> omega
  rw [flagResult, BitVec.toInt_ofInt_eq_self (by decide) (by omega) (by omega), carryResult]
  rcases Nat.mod_two_eq_zero_or_one a.toNat with h | h <;>
  · rw [h] at hodd
    simp only [h, decide_true, zero_ne_one, decide_false, Bool.toNat_true, Bool.toNat_false]
    omega

/-- Settles O42 (95_test_vectors.md Q9). -/
theorem shiftsDoubleAndHalve : Obligations.ShiftsDoubleAndHalve :=
  fun s =>
    ⟨⟨_, exec_eq_answer .lsl s, lsl_doubles s.a s.b false⟩,
     ⟨_, exec_eq_answer .lsr s, lsr_halves s.a s.b false⟩,
     ⟨_, exec_eq_answer .asr s, asr_halves s.a s.b false⟩⟩

end Sys2Proof.Proofs.Shift

/-! Proofs about the flags of all operations, read off `answer`. -/

namespace Sys2Proof.Proofs.Flags

open Sys2Proof Sys2Proof.Machine Refinement

/-! ## Each flag of `answer` -/

theorem answer_less_eq_true_iff (i : Instr) (s : State) : (answer i s).less = true ↔ s.a.toNat < s.b.toNat :=
  decide_eq_true_iff

theorem answer_equal_eq_true_iff (i : Instr) (s : State) : (answer i s).equal = true ↔ s.a = s.b :=
  decide_eq_true_iff.trans BitVec.toNat_inj

theorem answer_positive_eq_flag (i : Instr) (s : State) : (answer i s).positive = positiveFlag (flagResult i s.a s.b) :=
  (positiveFlag_eq _).symm

theorem answer_positive_eq_true_iff (i : Instr) (s : State) :
    (answer i s).positive = true ↔ (flagResult i s.a s.b).getLsbD 7 = false ∧ flagResult i s.a s.b ≠ 0x00#8 := by
  rw [answer_positive_eq_flag]
  simp [positiveFlag]

/-- Settles O26 (rule R67): the flag result is `flagResult`. -/
theorem flagsHaveCommonShape : Obligations.FlagsHaveCommonShape := by
  intro i s
  refine ⟨_, flagResult i s.a s.b, exec_eq_answer i s, fun hcmp => (answer_out_of_ne_cmp hcmp s).symm, ?_,
    answer_less_eq_true_iff i s, answer_equal_eq_true_iff i s, answer_positive_eq_true_iff i s, rfl⟩
  rintro rfl
  exact Arithmetic.flagResult_cmp_eq_ofNat s.a s.b

/-! ## The gate formulas -/

/-- A byte is 0 exactly if none of its eight bits is set. -/
theorem beq_zero_eq_nor (d : Byte) :
    (d == 0x00#8) = !(d.getLsbD 7 || d.getLsbD 6 || d.getLsbD 5 || d.getLsbD 4 || d.getLsbD 3 || d.getLsbD 2 ||
      d.getLsbD 1 || d.getLsbD 0) := by
  revert d
  decide

/-- The gate of EQUAL: two bytes are equal if the OR of their bit differences is 0. -/
theorem equalFlag_eq_nor (a b : Byte) :
    equalFlag a b = !((a.getLsbD 7 ^^ b.getLsbD 7) || (a.getLsbD 6 ^^ b.getLsbD 6) || (a.getLsbD 5 ^^ b.getLsbD 5) ||
      (a.getLsbD 4 ^^ b.getLsbD 4) || (a.getLsbD 3 ^^ b.getLsbD 3) || (a.getLsbD 2 ^^ b.getLsbD 2) ||
      (a.getLsbD 1 ^^ b.getLsbD 1) || (a.getLsbD 0 ^^ b.getLsbD 0)) := by
  have hdiff : equalFlag a b = (a ^^^ b == 0x00#8) := by
    rw [equalFlag, Bool.eq_iff_iff, beq_iff_eq, beq_iff_eq]
    exact BitVec.xor_eq_zero_iff.symm
  simp only [hdiff, beq_zero_eq_nor, BitVec.getLsbD_xor]

/-- The gate of POSITIVE: bit 7 clear and some other bit set. -/
theorem positiveFlag_eq_and_or (r : Byte) :
    positiveFlag r = (!r.getLsbD 7 && (r.getLsbD 6 || r.getLsbD 5 || r.getLsbD 4 || r.getLsbD 3 || r.getLsbD 2 ||
      r.getLsbD 1 || r.getLsbD 0)) := by
  rw [positiveFlag, bne, beq_zero_eq_nor]
  cases r.getLsbD 7 <;> simp

theorem positiveFlag_eq_true_iff (r : Byte) : positiveFlag r = true ↔ 1 ≤ r.toNat ∧ r.toNat ≤ 127 := by
  have hr := r.isLt
  rw [positiveFlag_eq, decide_eq_true_iff, BitVec.toInt_eq_toNat_cond]
  split <;> omega

/-- Settles O27 (44_flags.md sections 3 and 4). -/
theorem flagsMatchGateFormulas : Obligations.FlagsMatchGateFormulas := by
  intro i s
  refine ⟨_, exec_eq_answer i s, (equalFlag_eq s.a s.b).symm.trans (equalFlag_eq_nor s.a s.b), ?_⟩
  rintro r rfl
  rw [answer_positive_eq_flag]
  exact ⟨positiveFlag_eq_and_or _, positiveFlag_eq_true_iff _⟩

/-! ## The relations between the flags -/

theorem flagResult_eq_zero_iff {i : Instr} (hi : i ∈ [.sub, .cmp, .xor]) {a b : Byte} :
    flagResult i a b = 0x00#8 ↔ a = b := by
  cases i with
  | sub => rw [flagResult_sub]; exact sub_eq_zero
  | cmp => rw [flagResult_cmp]; exact sub_eq_zero
  | xor => rw [flagResult_xor]; exact BitVec.xor_eq_zero_iff
  | add | inc | dec | lsl | lsr | asr | rev => simp at hi
  | nand | nor | passa | passb | and | or | xnor | nota | notb => simp at hi

theorem flagResult_xnor_eq_ones_iff {a b : Byte} : flagResult .xnor a b = 0xFF#8 ↔ a = b := by
  rw [flagResult_xnor]
  exact (BitVec.not_inj (y := 0x00#8)).trans BitVec.xor_eq_zero_iff

theorem cout_eq_not_less {i : Instr} (hi : i ∈ [.sub, .cmp]) (s : State) :
    (answer i s).cout = !(answer i s).less := by
  have h : (answer i s).cout = decide (s.b.toNat ≤ s.a.toNat) := by
    rcases List.mem_pair.mp hi with rfl | rfl <;> rfl
  rw [h, answer_less, ← decide_not, decide_eq_decide, Nat.not_lt]

theorem not_positive_of_equal {i : Instr} (hi : i ∈ [.sub, .cmp, .xor, .xnor]) {s : State}
    (h : (answer i s).equal = true) : (answer i s).positive = false := by
  rw [answer_equal_eq_true_iff] at h
  have hr : flagResult i s.a s.b = 0x00#8 ∨ flagResult i s.a s.b = 0xFF#8 := by
    by_cases hx : i = .xnor
    · exact .inr (hx ▸ flagResult_xnor_eq_ones_iff.mpr h)
    · have hi' : i ∈ [.sub, .cmp, .xor] := by simpa [hx] using hi
      exact .inl ((flagResult_eq_zero_iff hi').mpr h)
  rw [answer_positive_eq_flag]
  rcases hr with hr | hr <;> rw [hr] <;> rfl

/-- Settles O28 (44_flags.md section 7). -/
theorem flagRelationsHold : Obligations.FlagRelationsHold := by
  intro i s
  refine ⟨_, exec_eq_answer i s, ?_, fun hi => cout_eq_not_less hi s,
    fun hi => (answer_equal_eq_true_iff i s).trans (flagResult_eq_zero_iff hi).symm, ?_,
    fun h => ((answer_positive_eq_true_iff i s).mp h).2, fun hi ⟨hpos, hequal⟩ => ?_,
    fun hi => carryResult_of_logic hi _ _ _, fun j => ⟨_, exec_eq_answer j s, rfl, rfl⟩⟩
  · rw [answer_less_eq_true_iff, answer_equal, decide_eq_true_iff]
    omega
  · rintro rfl
    exact (answer_equal_eq_true_iff .xnor s).trans flagResult_xnor_eq_ones_iff.symm
  · rw [not_positive_of_equal hi hequal] at hpos
    cases hpos

end Sys2Proof.Proofs.Flags

/-! Proofs about the ports each output depends on (rule R36). -/

namespace Sys2Proof.Proofs.Ports

open Sys2Proof Sys2Proof.Machine Refinement

/-! ## Ignored ports -/

theorem ne_cmp_of_outIgnoresB {i : Instr} (h : i.outIgnoresB = true) : i ≠ .cmp := by
  rintro rfl
  cases h

theorem ne_cmp_of_outIgnoresA {i : Instr} (h : i.outIgnoresA = true) : i ≠ .cmp := by
  rintro rfl
  cases h

theorem flagResult_of_outIgnoresB {i : Instr} (h : i.outIgnoresB = true) (a b b' : Byte) :
    flagResult i a b = flagResult i a b' := by
  cases i with
  | inc | dec | lsl | lsr | asr | rev => rfl
  | passa => rw [flagResult_passa, flagResult_passa]
  | nota => rw [flagResult_nota, flagResult_nota]
  | add | sub | nand | nor | xor | passb | and | or | xnor | cmp | notb => cases h

theorem flagResult_of_outIgnoresA {i : Instr} (h : i.outIgnoresA = true) (a a' b : Byte) :
    flagResult i a b = flagResult i a' b := by
  cases i with
  | passb | notb => rfl
  | add | sub | inc | dec | lsl | lsr | asr | rev => cases h
  | nand | nor | xor | passa | and | or | xnor | cmp | nota => cases h

/-- But for REV, the carry of an operation whose `OUT` ignores port B ignores it too, and the free bit. -/
theorem carryResult_of_outIgnoresB {i : Instr} (h : i.outIgnoresB = true) (hrev : i ≠ .rev) (a b b' : Byte)
    (c c' : Bool) : carryResult i a b c = carryResult i a b' c' := by
  cases i with
  | inc | dec | lsl | lsr | asr | passa | nota => rfl
  | rev => exact absurd rfl hrev
  | add | sub | nand | nor | xor | passb | and | or | xnor | cmp | notb => cases h

theorem type_eq_logic_of_outIgnoresA {i : Instr} (h : i.outIgnoresA = true) : i.type = .logic := by
  cases i with
  | passb | notb => rfl
  | add | sub | inc | dec | lsl | lsr | asr | rev => cases h
  | nand | nor | xor | passa | and | or | xnor | cmp | nota => cases h

/-! ## Ports that matter: operands on which the result, or the comparison, differs -/

theorem flagResult_depends_on_a {i : Instr} (h : i ∉ [.passb, .notb, .cmp]) :
    flagResult i 0xFF 0x0F ≠ flagResult i 0x00 0x0F := by
  cases i <;> revert h <;> decide

theorem flagResult_depends_on_b {i : Instr}
    (h : i ∈ [.add, .sub, .nand, .nor, .xor, .and, .or, .xnor, .passb, .notb]) :
    flagResult i 0x0F 0xFF ≠ flagResult i 0x0F 0x00 := by
  cases i <;> revert h <;> decide

/-- A state with the ports `a` and `b`. -/
def atPorts (a b : Byte) : State :=
  { State.reset with a := a, b := b }

theorem answer_out_eq_iff {i : Instr} (h : i ≠ .cmp) (s u : State) :
    (answer i u).out = (answer i s).out ↔ flagResult i u.a u.b = flagResult i s.a s.b := by
  rw [answer_out_of_ne_cmp h, answer_out_of_ne_cmp h]

/-- Settles O33 (rule R36, D12). -/
theorem outputsDependOnPortsAsTabulated : Obligations.OutputsDependOnPortsAsTabulated := by
  refine ⟨fun i hi s y => ⟨_, _, exec_eq_answer i s, exec_eq_answer i _, ?_⟩,
    fun i hi s x => ⟨_, _, exec_eq_answer i s, exec_eq_answer i _, ?_⟩,
    fun i hi => ⟨atPorts 0x00 0x0F, 0xFF, _, _, exec_eq_answer i _, exec_eq_answer i _, ?_⟩,
    fun i hi => ⟨atPorts 0x0F 0x00, 0xFF, _, _, exec_eq_answer i _, exec_eq_answer i _, ?_⟩,
    fun i => ⟨atPorts 0 1, 1, _, _, exec_eq_answer i _, exec_eq_answer i _, ?_, ?_⟩,
    fun i => ⟨atPorts 0 0, 1, _, _, exec_eq_answer i _, exec_eq_answer i _, ?_, ?_⟩⟩
  · have hB : i.outIgnoresB = true := by cases i <;> revert hi <;> decide
    exact (answer_out_eq_iff (ne_cmp_of_outIgnoresB hB) _ _).mpr (flagResult_of_outIgnoresB hB _ _ _)
  · have hA : i.outIgnoresA = true := by cases i <;> revert hi <;> decide
    exact (answer_out_eq_iff (ne_cmp_of_outIgnoresA hA) _ _).mpr (flagResult_of_outIgnoresA hA _ _ _)
  · have hcmp : i ≠ .cmp := by rintro rfl; simp at hi
    exact (answer_out_eq_iff hcmp _ _).not.mpr (flagResult_depends_on_a hi)
  · have hcmp : i ≠ .cmp := by rintro rfl; simp at hi
    exact (answer_out_eq_iff hcmp _ _).not.mpr (flagResult_depends_on_b hi)
  all_goals simp [atPorts]

end Sys2Proof.Proofs.Ports

/-! Proofs about the structure beneath the operations: the ripple-carry adder, its operand path, the result path. -/

namespace Sys2Proof.Proofs.Datapath

open Sys2Proof Sys2Proof.Machine Refinement

/-! ## The ripple-carry adder (rule R46) -/

theorem cellCarry_eq_atLeastTwo (x y cin : Bool) : cellCarry x y cin = x.atLeastTwo y cin := by
  revert x y cin
  decide

/-- The carry chain is the library's carry: that of adding the low `i` bits. -/
theorem carryChain_eq_carry (x y : Byte) (c0 : Bool) (i : Nat) : carryChain x y c0 i = BitVec.carry i x y c0 := by
  induction i with
  | zero => cases c0 <;> simp [carryChain, BitVec.carry, Nat.mod_one]
  | succ i ih => rw [carryChain, ih, cellCarry_eq_atLeastTwo, BitVec.carry_succ]

theorem rippleCarry_eq_carryOf (x y : Byte) (c0 : Bool) : rippleCarry x y c0 = carryOf (adder x y c0) := by
  rw [rippleCarry, carryChain_eq_carry, carryOf_adder, BitVec.carry, Nat.mod_eq_of_lt x.isLt, Nat.mod_eq_of_lt y.isLt]

theorem rippleSum_eq_add (x y : Byte) (c0 : Bool) : rippleSum x y c0 = x + y + (BitVec.ofBool c0).setWidth 8 :=
  Byte.ext fun k hk => by
    rw [rippleSum, getLsbD_ofBits, decide_eq_true hk, Bool.true_and, carryChain_eq_carry,
      BitVec.getLsbD_add_add_bool hk, cellSum, Bool.xor_assoc]

theorem rippleSum_eq_sumOf (x y : Byte) (c0 : Bool) : rippleSum x y c0 = sumOf (adder x y c0) := by
  refine BitVec.eq_of_toNat_eq ?_
  rw [rippleSum_eq_add, sumOf_adder_toNat]
  cases c0 <;> simp

theorem rippleSum_toNat_add_rippleCarry (x y : Byte) (c0 : Bool) :
    (rippleSum x y c0).toNat + 256 * (rippleCarry x y c0).toNat = x.toNat + y.toNat + c0.toNat := by
  have hx := x.isLt
  have hy := y.isLt
  have hc : c0.toNat ≤ 1 := c0.toNat_le
  rw [rippleSum_eq_sumOf, rippleCarry_eq_carryOf, sumOf_adder_toNat, carryOf_adder]
  by_cases h : 256 ≤ x.toNat + y.toNat + c0.toNat
  · rw [decide_eq_true h, Bool.toNat_true]
    omega
  · rw [decide_eq_false h, Bool.toNat_false]
    omega

/-- Settles O38 (rule R46). -/
theorem rippleAdderIsIntegerAddition : Obligations.RippleAdderIsIntegerAddition :=
  ⟨by decide, fun x y c0 =>
    ⟨rippleSum_toNat_add_rippleCarry x y c0, rippleSum_eq_sumOf x y c0, rippleCarry_eq_carryOf x y c0⟩⟩

/-! ## The operand path (rule R42) -/

theorem getLsbD_xorArray (y : Byte) (m : Bool) (k : Nat) (hk : k < 8) :
    (xorArray y m).getLsbD k = (y.getLsbD k ^^ m) := by
  rw [xorArray, getLsbD_ofBits, decide_eq_true hk, Bool.true_and]

theorem xorArray_false (y : Byte) : xorArray y false = y :=
  Byte.ext fun k hk => by rw [getLsbD_xorArray y false k hk, Bool.xor_false]

theorem xorArray_true (y : Byte) : xorArray y true = ~~~y :=
  Byte.ext fun k hk => by
    rw [getLsbD_xorArray y true k hk, BitVec.getLsbD_not, decide_eq_true hk, Bool.xor_true, Bool.true_and]

theorem adderPath_eq_sumOf (x y : Byte) (m : Bool) : adderPath x y m = sumOf (adder x (xorArray y m) m) :=
  rippleSum_eq_sumOf x (xorArray y m) m

theorem adderPath_false (x y : Byte) : adderPath x y false = x + y := by
  rw [adderPath_eq_sumOf, xorArray_false, sumOf_adder_eq_add]

theorem adderPath_true (x y : Byte) : adderPath x y true = x - y := by
  rw [adderPath_eq_sumOf, xorArray_true]
  exact sumOf_subtractor_eq_sub x y

theorem adderPathCarry_false (x y : Byte) : adderPathCarry x y false = carryOf (adder x y false) := by
  rw [adderPathCarry, xorArray_false, rippleCarry_eq_carryOf]

theorem adderPathCarry_true (x y : Byte) : adderPathCarry x y true = carryOf (subtractor x y) := by
  rw [adderPathCarry, xorArray_true, rippleCarry_eq_carryOf, subtractor]

/-- Settles O37 (rule R42). -/
theorem operandPathAddsOrSubtracts : Obligations.OperandPathAddsOrSubtracts := by
  intro x y
  refine ⟨getLsbD_xorArray y, xorArray_false y, xorArray_true y, adderPath_eq_sumOf x y, ?_, ?_, adderPath_true x y,
    fun m discarded => ⟨rfl, rfl⟩⟩
  · rw [adderPath_false, BitVec.toNat_add]
  · rw [adderPath_eq_sumOf, xorArray_true, sumOf_adder_toNat, not_toNat, Bool.toNat_true]

/-! ## The result path (rule R41) -/

/-- What it means for signals to fit a row, cell by cell; a don't-care cell says nothing. -/
theorem fits_iff {g : Signals} {row : ControlRow} :
    g.fits row = true ↔ (∀ m ∈ row.m, m = g.m) ∧ row.muxSel = g.muxSel ∧ row.invOut = g.invOut ∧
      ∀ sel ∈ row.logicSel, sel = g.logicSel := by
  simp [Signals.fits, Option.all_eq_true, and_assoc]

theorem arithmeticUnit_eq_flagResult {i : Instr} {m : Bool} (hi : i.type ≠ .logic)
    (hm : ∀ m' ∈ (controlRow i).m, m' = m) (a b discarded : Byte) :
    arithmeticUnit i m a b discarded = flagResult i a b := by
  cases i with
  | add => obtain rfl := hm _ rfl; exact (adderPath_false a b).trans (flagResult_add a b).symm
  | sub => obtain rfl := hm _ rfl; exact (adderPath_true a b).trans (flagResult_sub a b).symm
  | inc => obtain rfl := hm _ rfl; exact (adderPath_false a constantOne).trans (flagResult_inc a b).symm
  | dec => obtain rfl := hm _ rfl; exact (adderPath_true a constantOne).trans (flagResult_dec a b).symm
  | cmp => obtain rfl := hm _ rfl; exact (adderPath_true a b).trans (flagResult_cmp a b).symm
  | lsl => exact (flagResult_lsl a b).symm
  | lsr => exact (flagResult_lsr a b).symm
  | asr => exact (flagResult_asr a b).symm
  | rev => exact (flagResult_rev a b).symm
  | nand | nor | xor | passa | passb | and | or | xnor | nota | notb => exact absurd rfl hi

/-- Two logic operations of which one has the inverted truth table of the other have inverted results. -/
theorem flagResult_not {i j : Instr} (hi : i.type = .logic) (hj : j.type = .logic)
    (hnot : ∀ x y, Logic.truthTable j x y = !Logic.truthTable i x y) (a b : Byte) :
    flagResult j a b = ~~~flagResult i a b :=
  flagResult_of_logic_bits hj fun k hk => by
    rw [hnot, BitVec.getLsbD_not, decide_eq_true hk, Bool.true_and, Logic.getLsbD_flagResult_of_logic hi a b k hk]

/-- The base operations with the operations derived from them by `INV_OUT` (rule R41). -/
def invertedPairs : List (Instr × Instr) :=
  [(.nand, .and), (.nor, .or), (.xor, .xnor), (.passa, .nota), (.passb, .notb)]

theorem truthTable_of_mem_invertedPairs : ∀ p ∈ invertedPairs, p.1.type = .logic ∧ p.2.type = .logic ∧
    ∀ x y, Logic.truthTable p.2 x y = !Logic.truthTable p.1 x y := by
  decide

theorem controlRow_of_mem_invertedPairs : ∀ p ∈ invertedPairs,
    (controlRow p.1).invOut = false ∧ controlRow p.2 = { controlRow p.1 with invOut := true } := by
  decide

theorem flagResult_of_mem_invertedPairs {p : Instr × Instr} (hp : p ∈ invertedPairs) (a b : Byte) :
    flagResult p.2 a b = ~~~flagResult p.1 a b := by
  obtain ⟨h1, h2, hnot⟩ := truthTable_of_mem_invertedPairs p hp
  exact flagResult_not h1 h2 hnot a b

/-- The five functions of the logic unit compute the base operations. -/
theorem logicUnit_eq_of_base {i : Instr} (hi : i.type = .logic) (hinv : (controlRow i).invOut = false) {sel : BitVec 3}
    (hsel : ∀ sel' ∈ (controlRow i).logicSel, sel' = sel) (a b : Byte) :
    logicUnit sel a b = some (flagResult i a b) := by
  cases i with
  | nand => obtain rfl := hsel _ rfl; exact congrArg some (flagResult_nand a b).symm
  | nor => obtain rfl := hsel _ rfl; exact congrArg some (flagResult_nor a b).symm
  | xor => obtain rfl := hsel _ rfl; exact congrArg some (flagResult_xor a b).symm
  | passa => obtain rfl := hsel _ rfl; exact congrArg some (flagResult_passa a b).symm
  | passb => obtain rfl := hsel _ rfl; exact congrArg some (flagResult_passb a b).symm
  | and | or | xnor | nota | notb => cases hinv
  | add | sub | inc | dec | lsl | lsr | asr | rev | cmp => cases hi

theorem invOut_eq_true_iff (i : Instr) : (controlRow i).invOut = true ↔ i ∈ [.and, .or, .xnor, .nota, .notb] := by
  cases i <;> decide

/-- Every inverting operation is derived from a base operation. -/
theorem exists_base_of_invOut {i : Instr} (h : (controlRow i).invOut = true) : ∃ j, (j, i) ∈ invertedPairs := by
  cases i with
  | and => exact ⟨.nand, by decide⟩
  | or => exact ⟨.nor, by decide⟩
  | xnor => exact ⟨.xor, by decide⟩
  | nota => exact ⟨.passa, by decide⟩
  | notb => exact ⟨.passb, by decide⟩
  | add | sub | inc | dec | lsl | lsr | asr | rev => cases h
  | nand | nor | xor | passa | passb | cmp => cases h

theorem invOut_eq_false_of_muxSel {i : Instr} (h : (controlRow i).muxSel = false) : (controlRow i).invOut = false := by
  cases i with
  | and | or | xnor | nota | notb => cases h
  | add | sub | inc | dec | lsl | lsr | asr | rev => rfl
  | nand | nor | xor | passa | passb | cmp => rfl

/-- The result path shows the flag result of every operation, that of CMP included, for all signals that fit its row and
whatever the discarded unit shows. -/
theorem resultPath_eq_flagResult {i : Instr} {g : Signals} (h : g.fits (controlRow i) = true) (a b discarded : Byte) :
    resultPath g i a b discarded = some (flagResult i a b) := by
  obtain ⟨hm, hmux, hinv, hsel⟩ := fits_iff.mp h
  rw [resultPath, muxOut, ← hmux, ← hinv]
  cases hmuxSel : (controlRow i).muxSel with
  | false =>
    have hi : i.type ≠ .logic := by
      rw [Ne, ← Decoding.muxSel_eq_true_iff, hmuxSel]
      decide
    simp [invOut_eq_false_of_muxSel hmuxSel, arithmeticUnit_eq_flagResult hi hm]
  | true =>
    cases hinvOut : (controlRow i).invOut with
    | false => simp [logicUnit_eq_of_base ((Decoding.muxSel_eq_true_iff i).mp hmuxSel) hinvOut hsel]
    | true =>
      obtain ⟨j, hj⟩ := exists_base_of_invOut hinvOut
      obtain ⟨hbase, hrow⟩ := controlRow_of_mem_invertedPairs _ hj
      obtain ⟨hlogic, -⟩ := truthTable_of_mem_invertedPairs _ hj
      have hsel' : ∀ sel ∈ (controlRow j).logicSel, sel = g.logicSel := by
        rw [hrow] at hsel
        exact hsel
      simp [logicUnit_eq_of_base hlogic hbase hsel', flagResult_of_mem_invertedPairs hj]

theorem logicUnit_eq_getD {sel : BitVec 3} (h : sel.toNat ≤ 4) (x y : Byte) :
    logicUnit sel x y = some ([~~~(x &&& y), ~~~(x ||| y), x ^^^ y, x, y].getD sel.toNat 0x00#8) := by
  rw [logicUnit]
  generalize sel.toNat = n at h
  interval_cases n <;> rfl

/-- Settles O36 (rules R38, R41). -/
theorem resultPathComputesOut : Obligations.ResultPathComputesOut := by
  refine ⟨?_, fun i s g discarded hcmp hfits => ⟨_, exec_eq_answer i s, ?_, ?_⟩, fun p hp => ?_,
    invOut_eq_true_iff, fun i => invOut_eq_false_of_muxSel⟩
  · rintro g i x y discarded v rfl hsel
    rw [resultPath, muxOut, logicUnit_eq_getD hsel]
    cases g.muxSel <;> rfl
  · rw [resultPath_eq_flagResult hfits, answer_out_of_ne_cmp hcmp]
  · rw [answer_positive, answer_out_of_ne_cmp hcmp, decide_eq_true_iff]
  · obtain ⟨hbase, hrow⟩ := controlRow_of_mem_invertedPairs p hp
    obtain ⟨hlogic1, hlogic2, -⟩ := truthTable_of_mem_invertedPairs p hp
    have hcmp {i : Instr} (hi : i.type = .logic) : i ≠ .cmp := by rintro rfl; cases hi
    refine ⟨hbase, hrow, fun s => ⟨_, _, exec_eq_answer p.1 s, exec_eq_answer p.2 s, ?_⟩⟩
    rw [answer_out_of_ne_cmp (hcmp hlogic1), answer_out_of_ne_cmp (hcmp hlogic2), flagResult_of_mem_invertedPairs hp]

/-! ## COUT from the adder path (rules R42, R71) -/

/-- The carry of the adder path under the M of the row is that of the table, on the port B for ADD, SUB and CMP. -/
theorem carryResult_eq_adderPathCarry {i : Instr} (hi : i ∈ [.add, .sub, .cmp]) {m : Bool}
    (hm : ∀ m' ∈ (controlRow i).m, m' = m) (a b : Byte) (c : Bool) :
    carryResult i a b c = adderPathCarry a b m := by
  simp only [List.mem_cons, List.not_mem_nil, or_false] at hi
  obtain rfl | rfl | rfl := hi
  · obtain rfl := hm _ rfl
    exact (carryResult_add a b c).trans (adderPathCarry_false a b).symm
  all_goals
    obtain rfl := hm _ rfl
    exact (carryResult_sub a b c).trans (adderPathCarry_true a b).symm

/-- For INC and DEC it is that on the constant 1. -/
theorem carryResult_eq_adderPathCarry_one {i : Instr} (hi : i ∈ [.inc, .dec]) {m : Bool}
    (hm : ∀ m' ∈ (controlRow i).m, m' = m) (a b : Byte) (c : Bool) :
    carryResult i a b c = adderPathCarry a 0x01#8 m := by
  obtain rfl | rfl := List.mem_pair.mp hi
  · obtain rfl := hm _ rfl
    exact (carryResult_inc a b c).trans (adderPathCarry_false a constantOne).symm
  · obtain rfl := hm _ rfl
    exact (carryResult_dec a b c).trans (adderPathCarry_true a constantOne).symm

/-- Settles O39 (rules R42, R71). -/
theorem adderPathDrivesCout : Obligations.AdderPathDrivesCout := by
  intro i s g discarded hfits
  obtain ⟨hm, -⟩ := fits_iff.mp hfits
  exact ⟨_, exec_eq_answer i s, fun hi => carryResult_eq_adderPathCarry hi hm _ _ _,
    fun hi => carryResult_eq_adderPathCarry_one hi hm _ _ _,
    fun _ => ⟨_, resultPath_eq_flagResult hfits _ _ _, decide_eq_true_iff⟩⟩

end Sys2Proof.Proofs.Datapath

/-! Proofs about the algebra of the operations: identities of one evaluation, laws of two in a row, and operations that
agree on shared operands. -/

namespace Sys2Proof.Proofs.Algebra

open Sys2Proof Sys2Proof.Machine Refinement

/-- An operation other than CMP shows its flag result. -/
theorem exists_next_out {i : Instr} (hi : i ≠ .cmp) {s : State} {v : Byte} (hv : flagResult i s.a s.b = v) :
    ∃ t, exec i s = .next t ∧ t.out = v :=
  ⟨_, exec_eq_answer i s, (answer_out_of_ne_cmp hi s).trans hv⟩

/-- Settles O40 (30_encoding.md section 7). -/
theorem hostIdentitiesHold : Obligations.HostIdentitiesHold := by
  refine fun s => ⟨exists_next_out (by decide) (flagResult_passa _ _), fun ha => exists_next_out (by decide) ?_,
    fun hab => exists_next_out (by decide) ?_, _, _, exec_eq_answer .cmp s, exec_eq_answer .sub s, rfl, rfl, rfl, rfl⟩
  · rw [flagResult_sub, ha, BitVec.zero_sub]
  · rw [flagResult_xor, hab, BitVec.xor_self]

/-! ## Two evaluations in a row -/

/-- Operation `j` on the `OUT` of operation `i` shows its flag result of the first one's. -/
theorem exists_next_out_twice {i j : Instr} (hi : i ≠ .cmp) (hj : j ≠ .cmp) {s : State} {v : Byte}
    (hv : flagResult j (flagResult i s.a s.b) s.b = v) :
    ∃ t u, exec i s = .next t ∧ exec j { t with a := t.out } = .next u ∧ u.out = v := by
  refine ⟨_, _, exec_eq_answer i s, exec_eq_answer j _, (answer_out_of_ne_cmp hj _).trans ?_⟩
  rw [← hv, ← answer_out_of_ne_cmp hi s]
  rfl

theorem rev8_rev8 (v : Byte) : rev8 (rev8 v) = v :=
  Byte.ext fun k hk => by
    have hback : 7 - (7 - k) = k := by omega
    rw [getLsbD_rev8 _ k hk, getLsbD_rev8 _ (7 - k) (by omega), hback]

/-- Settles O41 (95_test_vectors.md Q6, Q7, Q8, Q11). -/
theorem twoStepLawsHold : Obligations.TwoStepLawsHold := by
  refine fun s => ⟨exists_next_out_twice (by decide) (by decide) ?_, exists_next_out_twice (by decide) (by decide) ?_,
    exists_next_out_twice (by decide) (by decide) ?_,
    exists_next_out_twice (by decide) (by decide) ?_, exists_next_out_twice (by decide) (by decide) ?_⟩
  · rw [flagResult_rev, flagResult_rev, rev8_rev8]
  · rw [flagResult_inc, flagResult_dec, BitVec.add_sub_cancel]
  · rw [flagResult_dec, flagResult_inc, BitVec.sub_add_cancel]
  · rw [flagResult_nota, flagResult_inc, BitVec.neg_eq_not_add]
  · rw [flagResult_add, flagResult_sub, BitVec.add_sub_cancel]

/-! ## Operations that agree -/

/-- Two operations with the same flag result and the same carry show the same five outputs. -/
theorem outputs_agree {i j : Instr} (hi : i ≠ .cmp) (hj : j ≠ .cmp) {s : State}
    (hr : flagResult i s.a s.b = flagResult j s.a s.b)
    (hc : carryResult i s.a s.b (Config.revCout s.draws) = carryResult j s.a s.b (Config.revCout s.draws)) :
    ∃ t u, exec i s = .next t ∧ exec j s = .next u ∧ t.outputs = u.outputs := by
  refine ⟨_, _, exec_eq_answer i s, exec_eq_answer j s, ?_⟩
  rw [answer_outputs, answer_outputs, eval, eval, outResult_of_ne_cmp hi, outResult_of_ne_cmp hj, hr]
  exact congrArg _ hc

theorem carryResult_lsl_eq_add (a : Byte) (c : Bool) : carryResult .lsl a a c = carryResult .add a a c := by
  have h : 128 ≤ a.toNat ↔ 256 ≤ a.toNat + a.toNat := by omega
  exact decide_eq_decide.mpr h

/-- Settles O43 (95_test_vectors.md Q4, Q5, Q10). -/
theorem operationsAgreeOnSharedOperands : Obligations.OperationsAgreeOnSharedOperands := by
  intro s
  refine ⟨fun hab => outputs_agree (by decide) (by decide) ?_ ?_,
    fun hb => outputs_agree (by decide) (by decide) ?_ ?_, fun hb => outputs_agree (by decide) (by decide) ?_ ?_,
    _, _, exec_eq_answer .add s, exec_eq_answer .add _, ?_, ?_, ?_, ?_⟩
  · rw [hab, flagResult, flagResult, Nat.two_mul]
  · rw [hab, carryResult_lsl_eq_add]
  · rw [hb, flagResult_inc, flagResult_add]
  · rw [hb, carryResult_inc, carryResult_add, constantOne]
  · rw [hb, flagResult_dec, flagResult_sub]
  · rw [hb, carryResult_dec, carryResult_sub, constantOne]
  · rw [answer_out_of_ne_cmp (by decide), answer_out_of_ne_cmp (by decide), flagResult_add, flagResult_add,
      BitVec.add_comm]
  · simp [eq_comm]
  · rw [answer_positive, answer_positive, flagResult_add, flagResult_add, BitVec.add_comm]
  · simp [carryResult, Nat.add_comm]

end Sys2Proof.Proofs.Algebra

/-! Proofs about a taken host step: its operands have values, or it is refused. -/

namespace Sys2Proof.Proofs.HostSteps

open Sys2Proof Sys2Proof.Machine Refinement Evaluation

/-- The operand names `OUT` of a step for which no outputs are recorded. -/
def Undriven (record : List (Option Outputs)) (op : HostOperand) : Prop :=
  ∃ j, op = .outOf j ∧ ∀ o, record[j]? ≠ some (some o)

theorem readHostOperand_of_undriven {s : State} {op : HostOperand} (h : Undriven s.record op) :
    s.readHostOperand op = none := by
  obtain ⟨j, rfl, hj⟩ := h
  rw [State.readHostOperand]
  split
  next o ho => exact absurd ho (hj o)
  next => rfl
  next => rfl

/-- An operand that is not undriven has a value, and reading it at most counts a draw. -/
theorem readHostOperand_of_not_undriven {s : State} {op : HostOperand} (h : ¬Undriven s.record op) :
    ∃ v n, s.readHostOperand op = some (v, { s with draws := n }) := by
  have hread : ∃ v s', s.readHostOperand op = some (v, s') := by
    cases op with
    | lit v => exact ⟨v, s, rfl⟩
    | any => exact ⟨_, _, rfl⟩
    | outOf j =>
      have hj : ∃ o, s.record[j]? = some (some o) := by
        by_contra hnone
        exact h ⟨j, rfl, not_exists.mp hnone⟩
      obtain ⟨o, ho⟩ := hj
      exact ⟨o.out, s, readHostOperand_of_value (.inr ⟨j, o, rfl, ho, rfl⟩)⟩
  obtain ⟨v, s', hv⟩ := hread
  obtain ⟨n, rfl⟩ := readHostOperand_some hv
  exact ⟨v, n, hv⟩

section Taken

variable {s : State} {h : HostStep} {rest : List HostStep} (hp : s.pending = h :: rest)
  (hg : guardHolds s.record h.guard = true)

include hp hg

theorem step_of_reserved (hd : decode h.func = none) : step s = .refused .reservedOpcode :=
  (step_of_taken hp hg).trans (takeHostStep_of_reserved rest s hd)

/-- A taken step of an operation on operands that have been read evaluates it and records the outputs. -/
theorem step_of_operands {i : Instr} (hd : decode h.func = some i) {x y : Byte} {n m : Nat}
    (ha : s.readHostOperand h.a = some (x, { s with draws := n }))
    (hb : State.readHostOperand { s with draws := n } h.b = some (y, { s with draws := m })) :
    step s = .next (recorded (answer i (presented h.func x y rest m s))) := by
  rw [step_of_taken hp hg, takeHostStep_of_decode rest s hd, presentHostStep_of_operands rest ha hb,
    evaluate_eq_answer (i := i) hd]
  rfl

theorem step_of_undriven {i : Instr} (hd : decode h.func = some i)
    (hu : Undriven s.record h.a ∨ Undriven s.record h.b) : step s = .refused .undrivenOperand := by
  rw [step_of_taken hp hg, takeHostStep_of_decode rest s hd, presentHostStep]
  by_cases hua : Undriven s.record h.a
  · rw [readHostOperand_of_undriven hua]
  · obtain ⟨x, n, hx⟩ := readHostOperand_of_not_undriven hua
    have hy : State.readHostOperand { s with draws := n } h.b = none :=
      readHostOperand_of_undriven (hu.resolve_left hua)
    simp only [hx, hy]

theorem step_of_driven {i : Instr} (hd : decode h.func = some i) (hua : ¬Undriven s.record h.a)
    (hub : ¬Undriven s.record h.b) :
    ∃ x y n, step s = .next (recorded (answer i (presented h.func x y rest n s))) := by
  obtain ⟨x, n, hx⟩ := readHostOperand_of_not_undriven hua
  obtain ⟨y, m, hy⟩ := readHostOperand_of_not_undriven (s := { s with draws := n }) hub
  exact ⟨x, y, m, step_of_operands hp hg hd hx hy⟩

/-- A taken step is refused as reserved from its opcode alone (rule R77). -/
theorem step_eq_refused_reserved_iff : step s = .refused .reservedOpcode ↔ 19 ≤ h.func.toNat := by
  rw [← Decoding.decode_eq_none_iff]
  refine ⟨fun hstep => ?_, step_of_reserved hp hg⟩
  cases hd : decode h.func with
  | none => rfl
  | some i =>
    by_cases hu : Undriven s.record h.a ∨ Undriven s.record h.b
    · rw [step_of_undriven hp hg hd hu] at hstep
      cases hstep
    · obtain ⟨hua, hub⟩ := not_or.mp hu
      obtain ⟨x, y, n, hnext⟩ := step_of_driven hp hg hd hua hub
      rw [hnext] at hstep
      cases hstep

theorem step_refused_iff :
    (∃ r, step s = .refused r) ↔ 19 ≤ h.func.toNat ∨ Undriven s.record h.a ∨ Undriven s.record h.b := by
  rw [← Decoding.decode_eq_none_iff]
  cases hd : decode h.func with
  | none => exact iff_of_true ⟨_, step_of_reserved hp hg hd⟩ (.inl rfl)
  | some i =>
    by_cases hu : Undriven s.record h.a ∨ Undriven s.record h.b
    · exact iff_of_true ⟨_, step_of_undriven hp hg hd hu⟩ (.inr hu)
    · obtain ⟨hua, hub⟩ := not_or.mp hu
      obtain ⟨x, y, n, hnext⟩ := step_of_driven hp hg hd hua hub
      simp [hnext, hua, hub]

end Taken

/-- Settles O6 (D22, log 14): operands with values are read without a draw. -/
theorem hostStepRunsDecodedOperation : Obligations.HostStepRunsDecodedOperation :=
  fun _ _ _ _ _ _ hp hg hd ha hb =>
    ⟨_, exec_eq_answer _ _, step_of_operands hp hg hd (readHostOperand_of_value ha) (readHostOperand_of_value hb)⟩

/-- Settles O49 (D10, D22, log 16). -/
theorem hostStepRefusedExactlyWhen : Obligations.HostStepRefusedExactlyWhen :=
  fun _ _ _ hp hg => step_refused_iff hp hg

/-- Settles O50 (rule R43, log 17): the free value stands on a port that `flagResult` and `carryResult` ignore. -/
theorem anyOperandIsFreeButDefinite : Obligations.AnyOperandIsFreeButDefinite := by
  refine ⟨fun s h rest i x hp hg hd ha hb hB => ?_, fun s h rest i y hp hg hd ha hb hA => ?_⟩
  · have hread : s.readHostOperand h.b = some (Config.anyOperand s.draws, { s with draws := s.draws + 1 }) := by
      rw [hb]; rfl
    refine ⟨_, step_of_operands hp hg hd (readHostOperand_of_value ha) hread, rfl, rfl, rfl, rfl,
      Flags.answer_less_eq_true_iff i _, Flags.answer_equal_eq_true_iff i _, fun z => ⟨?_, fun hrev => ?_⟩⟩
    · exact (answer_out_of_ne_cmp (Ports.ne_cmp_of_outIgnoresB hB) _).trans (Ports.flagResult_of_outIgnoresB hB x _ z)
    · exact Ports.carryResult_of_outIgnoresB hB hrev x _ z _ false
  · have hread : s.readHostOperand h.a = some (Config.anyOperand s.draws, { s with draws := s.draws + 1 }) := by
      rw [ha]; rfl
    have hlogic := Ports.type_eq_logic_of_outIgnoresA hA
    refine ⟨_, step_of_operands hp hg hd hread (readHostOperand_of_value hb), rfl, rfl, rfl, rfl,
      Flags.answer_less_eq_true_iff i _, Flags.answer_equal_eq_true_iff i _, fun z => ⟨?_, ?_⟩⟩
    · exact (answer_out_of_ne_cmp (Ports.ne_cmp_of_outIgnoresA hA) _).trans (Ports.flagResult_of_outIgnoresA hA _ z y)
    · exact (carryResult_of_logic hlogic _ y _).trans (carryResult_of_logic hlogic z y false).symm

end Sys2Proof.Proofs.HostSteps

/-! Proofs about runs of a host sequence without guards. -/

namespace Sys2Proof.Proofs.Runs

open Sys2Proof Sys2Proof.Machine Refinement Evaluation HostSteps

/-! ## Runs -/

theorem run_succ_of_next {s t : State} (h : step s = .next t) (n : Nat) :
    Host.Core.run Sys2Proof.core (n + 1) s = Host.Core.run Sys2Proof.core n t := by
  have hcore : Sys2Proof.core.step s = .next t := h
  simp only [Host.Core.run, hcore]

theorem run_succ_of_refused {s : State} {r : Refusal} (h : step s = .refused r) (n : Nat) :
    Host.Core.run Sys2Proof.core (n + 1) s = .refused r := by
  have hcore : Sys2Proof.core.step s = .refused r := h
  simp only [Host.Core.run, hcore]

/-- A step answers a next state or is refused: there is no fault (rule R74). -/
theorem step_next_or_refused (s : State) : (∃ t, step s = .next t) ∨ ∃ r, step s = .refused r := by
  cases h : step s with
  | next t => exact .inl ⟨t, rfl⟩
  | fault r => cases r
  | refused r => exact .inr ⟨r, rfl⟩

theorem straightLine_tail {h : HostStep} {steps : List HostStep} (hs : StraightLine (h :: steps)) :
    StraightLine steps :=
  fun k hk => hs k (List.mem_cons_of_mem h hk)

theorem guardHolds_of_straightLine {h : HostStep} {steps : List HostStep} (hs : StraightLine (h :: steps))
    (record : List (Option Outputs)) : guardHolds record h.guard = true := by
  rw [hs h List.mem_cons_self]
  rfl

/-! ## A well-formed sequence -/

/-- Every step so far was an evaluation and is recorded as one. -/
def AllEvaluated (record : List (Option Outputs)) : Prop :=
  ∀ e ∈ record, ∃ o, e = some o ∧ Possible o

theorem allEvaluated_append {record : List (Option Outputs)} (hrecord : AllEvaluated record) {o : Outputs}
    (ho : Possible o) : AllEvaluated (record ++ [some o]) := by
  intro e he
  rcases List.mem_append.mp he with hold | hnew
  · exact hrecord e hold
  · exact ⟨o, List.mem_singleton.mp hnew, ho⟩

/-- An operand of step `k` that names an earlier step has a value, if all `k` steps before were evaluated. -/
theorem not_undriven_of_wf {record : List (Option Outputs)} (hrecord : AllEvaluated record) {op : HostOperand}
    {ignored : Bool} (hwf : op.wf record.length ignored = true) : ¬Undriven record op := by
  rintro ⟨j, rfl, hj⟩
  have hlt : j < record.length := of_decide_eq_true hwf
  obtain ⟨o, ho, -⟩ := hrecord record[j] (List.getElem_mem hlt)
  exact hj o (by rw [List.getElem?_eq_getElem hlt, ho])

theorem hostStep_wf_iff {k : Nat} {h : HostStep} : h.wf k = true ↔ ∃ i, decode h.func = some i ∧
    h.a.wf k i.outIgnoresA = true ∧ h.b.wf k i.outIgnoresB = true ∧ h.guard.all (HostGuard.wf k) = true := by
  rw [HostStep.wf]
  cases decode h.func with
  | none => simp
  | some i => simp [and_assoc]

/-- A well-formed step that is taken is an evaluation, and recorded as one. -/
theorem step_of_wf {s : State} {h : HostStep} {rest : List HostStep} (hp : s.pending = h :: rest)
    (hg : guardHolds s.record h.guard = true) (hrecord : AllEvaluated s.record)
    (hwf : h.wf s.record.length = true) :
    ∃ t o, step s = .next t ∧ t.pending = rest ∧ t.record = s.record ++ [some o] ∧ Possible o := by
  obtain ⟨i, hd, ha, hb, -⟩ := hostStep_wf_iff.mp hwf
  obtain ⟨x, y, n, hstep⟩ := step_of_driven hp hg hd (not_undriven_of_wf hrecord ha) (not_undriven_of_wf hrecord hb)
  exact ⟨_, _, hstep, rfl, rfl, Invariant.possible_answer i _⟩

/-- A well-formed straight line runs to its end, whatever stands after it, and the run goes on from there. -/
theorem run_of_wf (after : List HostStep) (m : Nat) (steps : List HostStep) (hs : StraightLine steps) (s : State)
    (hp : s.pending = steps ++ after) (hrecord : AllEvaluated s.record)
    (hwf : HostSequence.wfFrom s.record.length steps = true) :
    ∃ t, Host.Core.run Sys2Proof.core (steps.length + m) s = Host.Core.run Sys2Proof.core m t ∧
      t.pending = after ∧ t.record.length = s.record.length + steps.length ∧ AllEvaluated t.record := by
  induction steps generalizing s with
  | nil => exact ⟨s, by rw [List.length_nil, Nat.zero_add], hp, rfl, hrecord⟩
  | cons h steps ih =>
    obtain ⟨hwfh, hwfs⟩ := Bool.and_eq_true_iff.mp hwf
    obtain ⟨u, o, hstep, hpu, hru, ho⟩ := step_of_wf hp (guardHolds_of_straightLine hs _) hrecord hwfh
    have hlen : u.record.length = s.record.length + 1 := by rw [hru, List.length_append, List.length_singleton]
    obtain ⟨t, hrun, hpending, hlength, hall⟩ :=
      ih (straightLine_tail hs) u hpu (hru ▸ allEvaluated_append hrecord ho) (hlen ▸ hwfs)
    refine ⟨t, ?_, hpending, ?_, hall⟩
    · rw [List.length_cons, Nat.add_right_comm, run_succ_of_next hstep, hrun]
    · rw [hlength, hlen, List.length_cons]
      omega

/-- Settles O51 (D22, log 14). -/
theorem straightLineSequenceRunsToItsEnd : Obligations.StraightLineSequenceRunsToItsEnd := by
  intro steps s hwf hs
  obtain ⟨t, hrun, hpending, hlength, hall⟩ := run_of_wf [] 0 steps hs (s.load steps)
    (List.append_nil steps).symm nofun hwf
  exact ⟨t, hrun, hpending, hlength.trans (Nat.zero_add _), hall⟩

/-! ## A sequence that comes to a reserved opcode -/

/-- Whatever comes after it, the run is refused at the latest at the reserved opcode. -/
theorem run_refused_of_reserved {h : HostStep} (after : List HostStep) (hres : 19 ≤ h.func.toNat) (m : Nat)
    (before : List HostStep) (hs : StraightLine (before ++ [h])) (s : State) (hp : s.pending = before ++ h :: after) :
    ∃ r, Host.Core.run Sys2Proof.core (before.length + 1 + m) s = .refused r := by
  induction before generalizing s with
  | nil =>
    have hstep := (step_eq_refused_reserved_iff hp (guardHolds_of_straightLine hs _)).mpr hres
    rw [List.length_nil, Nat.zero_add, Nat.add_comm]
    exact ⟨_, run_succ_of_refused hstep m⟩
  | cons k before ih =>
    have hlen : (k :: before).length + 1 + m = before.length + 1 + m + 1 := by rw [List.length_cons]; omega
    rw [hlen]
    obtain ⟨t, ht⟩ | ⟨r, hr⟩ := step_next_or_refused s
    · obtain ⟨hpending, -⟩ := hostStepUsesOneAndRecordsOne s t k _ hp ht
      obtain ⟨r, hr⟩ := ih (straightLine_tail hs) t hpending
      exact ⟨r, (run_succ_of_next ht _).trans hr⟩
    · exact ⟨r, run_succ_of_refused hr _⟩

/-- Settles O52 (rules R75, R77; D10, D22). -/
theorem reservedHostStepRefusesWholeRun : Obligations.ReservedHostStepRefusesWholeRun := by
  refine ⟨fun s h rest hp hg => step_eq_refused_reserved_iff hp hg, fun before after h s m hs hres =>
    ⟨run_refused_of_reserved after hres m before hs _ rfl, fun hwf => ?_⟩⟩
  have hbefore : StraightLine before := fun k hk => hs k (List.mem_append_left _ hk)
  have hguard : h.guard = none := hs h (List.mem_append_right _ List.mem_cons_self)
  obtain ⟨t, hrun, hp, -⟩ := run_of_wf (h :: after) (m + 1) before hbefore (s.load (before ++ h :: after)) rfl
    nofun hwf
  have hstep : step t = .refused .reservedOpcode :=
    (step_eq_refused_reserved_iff hp (by rw [hguard]; rfl)).mpr hres
  rw [Nat.add_assoc, Nat.add_comm 1 m, hrun]
  exact run_succ_of_refused hstep m

end Sys2Proof.Proofs.Runs
